-- ==== Sys2Proof/Word.lean ====
section
/-! DEFINITION. The word types of the CORE: 32-bit register words, binary32 and binary64 bit patterns
(spec/00_scope.md R12, R20; spec/10_state.md R101). -/

namespace Sys2Proof

/-- A 32-bit register or command word (R101, R301). -/
abbrev Word := BitVec 32

/-- One byte lane of a bus word (R201). -/
abbrev Byte := BitVec 8

/-- The bit pattern of an IEEE 754 binary32 value (R12, R20). -/
abbrev F32 := BitVec 32

/-- The bit pattern of an IEEE 754 binary64 value (R12). -/
abbrev F64 := BitVec 64

/-- The field `v[hi:lo]` of a word as an unsigned number (R20). -/
def Word.field (v : Word) (hi lo : Nat) : Nat :=
  v.toNat / 2 ^ lo % 2 ^ (hi + 1 - lo)

/-- `+0.0` in binary32. -/
abbrev F32.zero : F32 := 0x00000000#32

/-- `1.0` in binary32. -/
abbrev F32.one : F32 := 0x3F800000#32

end Sys2Proof
end

