-- ==== Sys2Proof/Syntax.lean ====
section
/-! DEFINITION. The commands of the CORE, one constructor for each row of spec/opcode_table.json
(spec/30_encoding.md R301, R304). The operands are the fields CH and SUB of the command word (R302). -/

namespace Sys2Proof

/-- A command. `c` is the channel index CH, `i` the oversampled phase SUB, both unsigned 4-bit fields (R302). -/
inductive Instr
  | nop
  | reset
  | clrst
  | tanh
  | ups (c : BitVec 4)
  | lstep (c i : BitVec 4)
  | dec (c : BitVec 4)
  | filt (c : BitVec 4)
  | vca
  | vcf
  | bass
  | dyn
  deriving DecidableEq, Repr

end Sys2Proof
end

