-- ==== Sys2Proof/WellFormed.lean ====
section
/-! DEFINITION. When a command is legal for a CORE with `nch` channels whose current oversample factor is `n`
(spec/30_encoding.md R305, conditions 4 to 6; conditions 1 to 3 are the decoder's). -/

namespace Sys2Proof

/-- R305(4), (5): the channel exists, and the phase is below the current factor. R305(6): channel 0 exists for BASS. -/
def Instr.wellFormed (nch n : Nat) : Instr → Bool
  | .ups c => decide (c.toNat < nch)
  | .lstep c i => decide (c.toNat < nch) && decide (i.toNat < n)
  | .dec c => decide (c.toNat < nch)
  | .filt c => decide (c.toNat < nch)
  | .bass => decide (0 < nch)
  | .nop => true
  | .reset => true
  | .clrst => true
  | .tanh => true
  | .vca => true
  | .vcf => true
  | .dyn => true

end Sys2Proof
end

