-- ==== Sys2Proof/Decode.lean ====
section
/-! DEFINITION. The decoder and the encoder of command words (spec/30_encoding.md R300 to R306). The decoder checks what the
word alone decides: R305(1), (2), (3) and the SUB = 0 of (4). The conditions on P_NCH and N are
`Instr.wellFormed`'s, checked when the command is executed. -/

namespace Sys2Proof

/-- Why a command word names no command (R306). Every reason raises the same ILLCMD event. -/
inductive DecodeError
  /-- OPC is none of the twelve opcodes of R304. -/
  | reservedOpcode
  /-- RSV, bits 15:0, is not 0 (R305(2)). -/
  | rsvNonzero
  /-- CH is not 0 for a command without a channel (R305(3)). -/
  | chNonzero
  /-- SUB is not 0 for a command without a phase (R305(3), (4)). -/
  | subNonzero
  /-- Fewer than four bytes (R301: a command is always one 32-bit word). -/
  | truncated
  deriving DecidableEq, Repr

/-- The fields of format C (R301). -/
def opcOf (w : Word) : Nat := w.toNat / 2 ^ 24
def chOf (w : Word) : BitVec 4 := BitVec.ofNat 4 (w.toNat / 2 ^ 20)
def subOf (w : Word) : BitVec 4 := BitVec.ofNat 4 (w.toNat / 2 ^ 16)
def rsvOf (w : Word) : Nat := w.toNat % 2 ^ 16

/-- A command without operands: CH and SUB must be 0. -/
def decodePlain (w : Word) (i : Instr) : Except DecodeError Instr :=
  if chOf w ≠ 0 then .error .chNonzero
  else if subOf w ≠ 0 then .error .subNonzero
  else .ok i

/-- A command with a channel only: SUB must be 0. -/
def decodeChannel (w : Word) (f : BitVec 4 → Instr) : Except DecodeError Instr :=
  if subOf w ≠ 0 then .error .subNonzero else .ok (f (chOf w))

/-- The opcode map of R304 on a word whose RSV field is 0. -/
def decodeOpc (w : Word) : Except DecodeError Instr :=
  match opcOf w with
  | 0x00 => decodePlain w .nop
  | 0x01 => decodePlain w .reset
  | 0x02 => decodePlain w .clrst
  | 0x10 => decodePlain w .tanh
  | 0x20 => decodeChannel w .ups
  | 0x21 => .ok (.lstep (chOf w) (subOf w))
  | 0x22 => decodeChannel w .dec
  | 0x23 => decodeChannel w .filt
  | 0x30 => decodePlain w .vca
  | 0x31 => decodePlain w .vcf
  | 0x32 => decodePlain w .bass
  | 0x40 => decodePlain w .dyn
  | _ => .error .reservedOpcode

/-- The decoder of command words: R305(2), then the opcode map. -/
def decode (w : Word) : Except DecodeError Instr :=
  if rsvOf w ≠ 0 then .error .rsvNonzero else decodeOpc w

/-- Four bytes, least significant first, as a word (R201). -/
def wordOfBytes (b0 b1 b2 b3 : Byte) : Word :=
  BitVec.ofNat 32 (b0.toNat + 2 ^ 8 * b1.toNat + 2 ^ 16 * b2.toNat + 2 ^ 24 * b3.toNat)

/-- The decoder on bytes in the order the bus lanes carry them (R201): the command and the bytes left. -/
def decodeBytes : List Byte → Except DecodeError (Instr × List Byte)
  | b0 :: b1 :: b2 :: b3 :: rest =>
    match decode (wordOfBytes b0 b1 b2 b3) with
    | .ok i => .ok (i, rest)
    | .error e => .error e
  | _ => .error .truncated

/-- The opcode of R304. -/
def Instr.opc : Instr → Nat
  | .nop => 0x00
  | .reset => 0x01
  | .clrst => 0x02
  | .tanh => 0x10
  | .ups _ => 0x20
  | .lstep _ _ => 0x21
  | .dec _ => 0x22
  | .filt _ => 0x23
  | .vca => 0x30
  | .vcf => 0x31
  | .bass => 0x32
  | .dyn => 0x40

/-- The CH field of R304. -/
def Instr.ch : Instr → BitVec 4
  | .ups c => c
  | .lstep c _ => c
  | .dec c => c
  | .filt c => c
  | .nop => 0
  | .reset => 0
  | .clrst => 0
  | .tanh => 0
  | .vca => 0
  | .vcf => 0
  | .bass => 0
  | .dyn => 0

/-- The SUB field of R304. -/
def Instr.sub : Instr → BitVec 4
  | .lstep _ i => i
  | .ups _ => 0
  | .dec _ => 0
  | .filt _ => 0
  | .nop => 0
  | .reset => 0
  | .clrst => 0
  | .tanh => 0
  | .vca => 0
  | .vcf => 0
  | .bass => 0
  | .dyn => 0

/-- The command word of R304: `OPC << 24 | CH << 20 | SUB << 16`. -/
def encode (i : Instr) : Word :=
  BitVec.ofNat 32 (i.opc * 2 ^ 24 + i.ch.toNat * 2 ^ 20 + i.sub.toNat * 2 ^ 16)

/-- The bytes of the command word, least significant first (R201). -/
def encodeBytes (i : Instr) : List Byte :=
  let w := (encode i).toNat
  [BitVec.ofNat 8 w, BitVec.ofNat 8 (w / 2 ^ 8), BitVec.ofNat 8 (w / 2 ^ 16), BitVec.ofNat 8 (w / 2 ^ 24)]

/-- The command read from an instruction of `nbits` bits `w`, numbered as spec/opcode_table.json numbers them (one
32-bit word, bit 0 least significant): its bytes in lane order, given to the decoder. -/
def decodeTableWord (nbits w : Nat) : Option Instr :=
  let v := w % 2 ^ nbits
  match decodeBytes
      [BitVec.ofNat 8 v, BitVec.ofNat 8 (v / 2 ^ 8), BitVec.ofNat 8 (v / 2 ^ 16), BitVec.ofNat 8 (v / 2 ^ 24)] with
  | .ok (i, _) => some i
  | .error _ => none

end Sys2Proof
end

