-- ==== Sys2Proof/Config.lean ====
section
/-! DEFINITION. What an implementation fixes (spec/00_scope.md R10) and the free values (R14, R15).
The parameters are an ARGUMENT of the model (R6, R10): the record `Params` rides in the State as plain data, no step
changes it, and a statement about every state holds for every choice of parameters. The transcendental functions TR
and the NaN bits are uninterpreted constants without a body. -/

namespace Sys2Proof

/-- The quartic coefficients P_GRES_C0 to P_GRES_C4 of R10, OPEN. -/
structure GresCoeffs where
  c0 : F64
  c1 : F64
  c2 : F64
  c3 : F64
  c4 : F64
  deriving DecidableEq, Repr

/-- The reset values P_RV_<bank>_<reg> of one envelope bank (R140). The T_DEC of the VCF is the literal "~1.1s" of the
source: R6 and entry I14 make it a parameter whose default, in R140 and R1000, is 1.1 s (log entry 4). -/
structure EnvResetValues where
  tAtt    : F32
  tAccAtt : F32
  tPeak   : F32
  tDec    : F32
  tAccDec : F32
  tEnd    : F32
  peakLvl : F32
  deriving DecidableEq, Repr

/-- The reset values P_RV_<register> of R140. -/
structure ResetValues where
  vca      : EnvResetValues
  vcf      : EnvResetValues
  cutBase  : F32
  envmod   : F32
  vcfScale : F32
  vcfBias  : F32
  cutMin   : F32
  cutMax   : F32
  dynTaMs  : F32
  dynTrMs  : F32
  dynLtDb  : F32
  dynDepth : Word
  deriving DecidableEq, Repr

/-- The implementation parameters of R10 that a model takes as an argument: the OPEN ones and the source's literals
(R6). P_NCH is the number of channel banks the State holds (Machine/State.lean, `State.nch`). -/
structure Params where
  /-- P_Q, FIR taps per polyphase phase. -/
  q          : Nat
  /-- P_KUP_2, P_KUP_4, P_KUP_8: upsampler kernels, N·P_Q taps. -/
  kup2       : List F32
  kup4       : List F32
  kup8       : List F32
  /-- P_KDN_2, P_KDN_4, P_KDN_8: decimator kernels, N·P_Q taps. -/
  kdn2       : List F32
  kdn4       : List F32
  kdn8       : List F32
  /-- P_FIR_CUTOFF, the cutoff the kernels are designed for; the hardware checks nothing against it (R451). -/
  firCutoff  : F64
  /-- P_OSF_DEFAULT as its OSF code. -/
  osfDefault : BitVec 2
  /-- P_TANH_BOUND. -/
  tanhBound  : F64
  /-- P_VT2, a binary32 value. -/
  vt2        : F32
  /-- P_GC0 to P_GC3. -/
  gc0        : F64
  gc1        : F64
  gc2        : F64
  gc3        : F64
  /-- P_GRES_FIXED. -/
  gresFixed  : F64
  /-- P_GRES_C0 to P_GRES_C4; `none` when no value is supplied (spec/93_implementation_defined.md I7). -/
  gres       : Option GresCoeffs
  /-- P_IN_SCALE, a nonzero finite binary32. -/
  inScale    : F32
  /-- P_ENV_MIN. -/
  envMin     : F32
  /-- P_HYST_T. -/
  hystT      : F64
  /-- P_DYN_K. -/
  dynK       : F64
  /-- P_DYN_REF. -/
  dynRef     : F64
  /-- P_LA_MAX. -/
  laMax      : Word
  /-- P_RV_<register>. -/
  rv         : ResetValues
  deriving DecidableEq, Repr

/-- P_FS_MIN = 44100.0 and P_FS_MAX = 768000.0 as binary32 (R10, R115: R115 writes both as literals). -/
abbrev Config.fsMin : F32 := 0x472C4400#32
abbrev Config.fsMax : F32 := 0x493B8000#32

/-- The value the ID register always reads (R112). -/
abbrev Config.idValue : Word := 0x41544E07#32

/-- The operations that can give a NaN; the free NaN bits depend on the operation and its operands. -/
inductive FpOp
  | add | sub | mul | div | widen | narrow | ln | log10
  deriving DecidableEq, Repr

/-- FREE VALUE (R14, I3): sign and payload of the quiet binary32 NaN an operation gives, from its operands' bits. -/
opaque Config.freeNan32 : FpOp → Nat → Nat → BitVec 23

/-- FREE VALUE (R14, I3): sign and payload of the quiet binary64 NaN an operation gives, from its operands' bits. -/
opaque Config.freeNan64 : FpOp → Nat → Nat → BitVec 52

/-- The transcendental functions TR of R15 as an argument: binary64 to binary64, each a function of its argument alone. -/
structure TR where
  exp   : F64 → F64
  ln    : F64 → F64
  log10 : F64 → F64
  pow10 : F64 → F64

/-- FREE VALUES (R15, I4): the TR of the built CORE, OPEN; nothing is known of their values. -/
opaque Config.trExp : F64 → F64
opaque Config.trLn : F64 → F64
opaque Config.trLog10 : F64 → F64
opaque Config.trPow10 : F64 → F64

/-- The TR of the built CORE. -/
def Config.tr : TR := ⟨Config.trExp, Config.trLn, Config.trLog10, Config.trPow10⟩

end Sys2Proof
end

