-- ==== Sys2Proof/Machine/Float.lean ====
section
/-! DEFINITION. IEEE 754 binary32 and binary64 arithmetic on bit patterns, by spec/00_scope.md R12 to R16 and R21:
every operation converts its operands to exact values, computes exactly and rounds once, to nearest with ties to even;
subnormals are kept, overflow gives an infinity, and a NaN result has free sign and payload (R13, R14). -/

namespace Sys2Proof.Machine

/-- A floating-point datum: `fin neg m e` is the number `(-1)^neg · m · 2^e`. -/
inductive Fp
  | nan
  | inf (neg : Bool)
  | fin (neg : Bool) (m : Nat) (e : Int)
  deriving DecidableEq, Repr

/-! ### Exact operations -/

/-- `m · 2^(e - lo)`, the significand rescaled to the exponent `lo ≤ e`. -/
def scaleTo (m : Nat) (e lo : Int) : Nat := m * 2 ^ (e - lo).toNat

/-- A significand with its sign. -/
def signed (neg : Bool) (m : Nat) : Int := if neg then -(m : Int) else m

/-- Exact sum; an exact zero sum is `-0` only when both operands are negative (IEEE 754, R13(a)). -/
def fpAdd : Fp → Fp → Fp
  | .nan, _ => .nan
  | _, .nan => .nan
  | .inf s, .inf t => if s = t then .inf s else .nan
  | .inf s, .fin _ _ _ => .inf s
  | .fin _ _ _, .inf t => .inf t
  | .fin s m e, .fin t n f =>
    let lo := min e f
    let v := signed s (scaleTo m e lo) + signed t (scaleTo n f lo)
    if v = 0 then .fin (s && t) 0 lo else .fin (decide (v < 0)) v.natAbs lo

/-- The negated value; a NaN stays a NaN. -/
def fpNeg : Fp → Fp
  | .nan => .nan
  | .inf s => .inf (!s)
  | .fin s m e => .fin (!s) m e

/-- Exact product; `∞ · 0` is a NaN. -/
def fpMul : Fp → Fp → Fp
  | .nan, _ => .nan
  | _, .nan => .nan
  | .inf s, .inf t => .inf (s != t)
  | .inf s, .fin t n _ => if n = 0 then .nan else .inf (s != t)
  | .fin s m _, .inf t => if m = 0 then .nan else .inf (s != t)
  | .fin s m e, .fin t n f => .fin (s != t) (m * n) (e + f)

/-- Quotient to at least `bits` significant bits, with a last bit that says whether a remainder was left, so that
rounding it to fewer than `bits` bits gives what rounding the exact quotient gives (R13(a), (g)). -/
def fpDiv (bits : Nat) : Fp → Fp → Fp
  | .nan, _ => .nan
  | _, .nan => .nan
  | .inf _, .inf _ => .nan
  | .inf s, .fin t _ _ => .inf (s != t)
  | .fin s _ _, .inf t => .fin (s != t) 0 0
  | .fin s m e, .fin t n f =>
    if n = 0 then (if m = 0 then .nan else .inf (s != t))
    else
      let k := bits + n.log2
      let num := m * 2 ^ k
      .fin (s != t) (2 * (num / n) + (if num % n = 0 then 0 else 1)) (e - f - k - 1)

/-! ### Rounding to a format -/

/-- `m / 2^k` rounded to nearest, ties to even. -/
def roundShift (m k : Nat) : Nat :=
  let d := 2 ^ k
  let f := m / d
  let r := m % d
  if 2 * r > d ∨ (2 * r = d ∧ f % 2 = 1) then f + 1 else f

/-- The magnitude bits of `m · 2^e` in the format with `frac` fraction bits, least exponent `emin` (that of the last
place of a subnormal) and infinity pattern `infBits`. -/
def roundMag (frac : Nat) (emin : Int) (infBits m : Nat) (e : Int) : Nat :=
  if m = 0 then 0
  else
    let q := max (e + m.log2 - frac) emin
    let sig := if q ≤ e then scaleTo m e q else roundShift m (q - e).toNat
    min infBits ((q - emin).toNat * 2 ^ frac + sig)

/-! ### binary32 -/

/-- The bits below the sign of a binary32 pattern. -/
def mag32 (x : F32) : Nat := x.toNat % 0x80000000

/-- The sign bit of a binary32 pattern. -/
def neg32 (x : F32) : Bool := decide (0x80000000 ≤ x.toNat)

def isNaN32 (x : F32) : Bool := decide (0x7F800000 < mag32 x)

/-- `isfinite(v)` of R14. -/
def isFinite32 (x : F32) : Bool := decide (mag32 x < 0x7F800000)

/-- The datum a binary32 pattern stands for (R20). -/
def unpack32 (x : F32) : Fp :=
  let g := mag32 x
  if 0x7F800000 < g then .nan
  else if g = 0x7F800000 then .inf (neg32 x)
  else
    let ex := g / 0x800000
    let fr := g % 0x800000
    if ex = 0 then .fin (neg32 x) fr (-149) else .fin (neg32 x) (fr + 0x800000) ((ex : Int) - 150)

/-- A pattern from its sign and magnitude bits. -/
def make32 (neg : Bool) (g : Nat) : F32 := BitVec.ofNat 32 ((if neg then 0x80000000 else 0) + g)

/-- Rounds a datum to binary32; `nan` is the pattern a NaN takes. -/
def pack32 (nan : F32) : Fp → F32
  | .nan => nan
  | .inf s => make32 s 0x7F800000
  | .fin s m e => make32 s (roundMag 23 (-149) 0x7F800000 m e)

/-- The quiet NaN with free sign and payload that an operation gives (R14). DESIGN CHOICE (log entry 5): they depend on
the operation and its operands. -/
def nan32 (op : FpOp) (a b : Nat) : F32 :=
  let r := (Config.freeNan32 op a b).toNat
  make32 (decide (0x400000 ≤ r)) (0x7FC00000 + r % 0x400000)

def f32Add (a b : F32) : F32 := pack32 (nan32 .add a.toNat b.toNat) (fpAdd (unpack32 a) (unpack32 b))
def f32Sub (a b : F32) : F32 := pack32 (nan32 .sub a.toNat b.toNat) (fpAdd (unpack32 a) (fpNeg (unpack32 b)))
def f32Mul (a b : F32) : F32 := pack32 (nan32 .mul a.toNat b.toNat) (fpMul (unpack32 a) (unpack32 b))
def f32Div (a b : F32) : F32 := pack32 (nan32 .div a.toNat b.toNat) (fpDiv 27 (unpack32 a) (unpack32 b))

/-- Unary minus: the sign bit is inverted. -/
def f32Neg (a : F32) : F32 := make32 (!neg32 a) (mag32 a)

/-- `|v|` of R21: the sign bit is cleared. -/
def f32Abs (a : F32) : F32 := make32 false (mag32 a)

/-- The order key of a pattern that is not a NaN: both zeros have key 0. -/
def key32 (x : F32) : Int := signed (neg32 x) (mag32 x)

/-- `a < b`; every comparison with a NaN is false. -/
def f32Lt (a b : F32) : Bool := !isNaN32 a && !isNaN32 b && decide (key32 a < key32 b)

/-- `a ≤ b`; every comparison with a NaN is false. -/
def f32Le (a b : F32) : Bool := !isNaN32 a && !isNaN32 b && decide (key32 a ≤ key32 b)

/-- `maxf(a, b)` and `minf(a, b)` of R21. -/
def f32Max (a b : F32) : F32 := if f32Lt a b then b else a
def f32Min (a b : F32) : F32 := if f32Lt b a then b else a

/-- `f32(n)` of R16 and R21. -/
def f32OfNat (n : Nat) : F32 := pack32 F32.zero (.fin false n 0)

/-- `copysign(1, v)` of R21. -/
def f32CopySignOne (v : F32) : F32 := make32 (neg32 v) 0x3F800000

/-! ### binary64 -/

def mag64 (x : F64) : Nat := x.toNat % 0x8000000000000000

def neg64 (x : F64) : Bool := decide (0x8000000000000000 ≤ x.toNat)

def isNaN64 (x : F64) : Bool := decide (0x7FF0000000000000 < mag64 x)

/-- The datum a binary64 pattern stands for. -/
def unpack64 (x : F64) : Fp :=
  let g := mag64 x
  if 0x7FF0000000000000 < g then .nan
  else if g = 0x7FF0000000000000 then .inf (neg64 x)
  else
    let ex := g / 0x10000000000000
    let fr := g % 0x10000000000000
    if ex = 0 then .fin (neg64 x) fr (-1074)
    else .fin (neg64 x) (fr + 0x10000000000000) ((ex : Int) - 1075)

def make64 (neg : Bool) (g : Nat) : F64 := BitVec.ofNat 64 ((if neg then 0x8000000000000000 else 0) + g)

/-- Rounds a datum to binary64; `nan` is the pattern a NaN takes. -/
def pack64 (nan : F64) : Fp → F64
  | .nan => nan
  | .inf s => make64 s 0x7FF0000000000000
  | .fin s m e => make64 s (roundMag 52 (-1074) 0x7FF0000000000000 m e)

/-- The quiet NaN with free sign and payload that an operation gives (R14). -/
def nan64 (op : FpOp) (a b : Nat) : F64 :=
  let r := (Config.freeNan64 op a b).toNat
  make64 (decide (0x8000000000000 ≤ r)) (0x7FF8000000000000 + r % 0x8000000000000)

def f64Add (a b : F64) : F64 := pack64 (nan64 .add a.toNat b.toNat) (fpAdd (unpack64 a) (unpack64 b))
def f64Sub (a b : F64) : F64 := pack64 (nan64 .sub a.toNat b.toNat) (fpAdd (unpack64 a) (fpNeg (unpack64 b)))
def f64Mul (a b : F64) : F64 := pack64 (nan64 .mul a.toNat b.toNat) (fpMul (unpack64 a) (unpack64 b))
def f64Div (a b : F64) : F64 := pack64 (nan64 .div a.toNat b.toNat) (fpDiv 56 (unpack64 a) (unpack64 b))

def f64Neg (a : F64) : F64 := make64 (!neg64 a) (mag64 a)

def f64Abs (a : F64) : F64 := make64 false (mag64 a)

def key64 (x : F64) : Int := signed (neg64 x) (mag64 x)

def f64Lt (a b : F64) : Bool := !isNaN64 a && !isNaN64 b && decide (key64 a < key64 b)

/-- `maxf(a, b)` of R21 in binary64. -/
def f64Max (a b : F64) : F64 := if f64Lt a b then b else a

/-- An unsigned integer as binary64; exact below 2^53. -/
def f64OfNat (n : Nat) : F64 := pack64 0 (.fin false n 0)

/-- `floor(v)` of R16 for `v ≥ 0`. DESIGN CHOICE (log entry 16): a NaN, an infinity or a negative value gives 0. -/
def f64Floor (v : F64) : Nat :=
  match unpack64 v with
  | .fin false m e => if 0 ≤ e then scaleTo m e 0 else m / 2 ^ (-e).toNat
  | _ => 0

/-! ### Conversions -/

/-- `widen(v)` of R21: binary32 to binary64, exact. -/
def widen (v : F32) : F64 := pack64 (nan64 .widen v.toNat 0) (unpack32 v)

/-- `narrow32(v)` of R21: binary64 rounded to binary32. -/
def narrow32 (v : F64) : F32 := pack32 (nan32 .narrow v.toNat 0) (unpack64 v)

/-! ### Transcendental functions -/

/-- A zero of either sign in binary64. -/
def isZero64 (x : F64) : Bool := mag64 x == 0

/-- `TR.exp` with the special cases R15 and R700 state: `exp(−∞) = +0`, `exp(−0) = 1`. DEDUCED (log entry 7). -/
def trExp (tr : TR) (x : F64) : F64 :=
  if x = 0xFFF0000000000000#64 then 0x0000000000000000#64
  else if x = 0x8000000000000000#64 then 0x3FF0000000000000#64
  else tr.exp x

/-- `TR.ln` with the special cases of R15: `ln(+0) = −∞`, `ln(v < 0) = NaN`. -/
def trLn (tr : TR) (x : F64) : F64 :=
  if x = 0x0000000000000000#64 then 0xFFF0000000000000#64
  else if f64Lt x 0x0000000000000000#64 then nan64 .ln x.toNat 0
  else tr.ln x

/-- `TR.log10` with the special cases R15 and R702 state: `log10(+0) = −∞`, and a NaN for a NaN. DEDUCED (log entry 7). -/
def trLog10 (tr : TR) (x : F64) : F64 :=
  if x = 0x0000000000000000#64 then 0xFFF0000000000000#64
  else if isNaN64 x then nan64 .log10 x.toNat 0
  else tr.log10 x

/-- `TR.pow10` with the special case of R15: `pow10(0) = 1` exactly. -/
def trPow10 (tr : TR) (x : F64) : F64 :=
  if isZero64 x then 0x3FF0000000000000#64 else tr.pow10 x

end Sys2Proof.Machine
end

