-- ==== Sys2Proof/Machine/Params.lean ====
section
/-! DEFINITION. The nominal parameters of spec/00_scope.md R10 and what R10, R140 and R451 require of every parameter
choice. -/

namespace Sys2Proof.Machine

/-- The OPEN reset values of R140 at reset, log entry 4: +0.0, PEAK_LVL at the least value R130 admits. -/
def nominalEnvReset : EnvResetValues :=
  { tAtt := F32.zero, tAccAtt := F32.zero, tPeak := F32.zero, tDec := F32.zero,
    tAccDec := F32.zero, tEnd := F32.zero,
    peakLvl := 0x38D1B717#32 }

def nominalResetValues : ResetValues :=
  { vca := nominalEnvReset
    vcf := { nominalEnvReset with tDec := 0x3F8CCCCD#32 }
    cutBase := F32.zero, envmod := F32.zero, vcfScale := F32.zero, vcfBias := F32.zero
    cutMin := F32.zero, cutMax := F32.zero
    dynTaMs := F32.zero, dynTrMs := F32.zero, dynLtDb := F32.zero, dynDepth := 0 }

/-- The parameters State.reset carries: the defaults of R10's table, and for the OPEN filter parameters the test
parameters of R451 and spec/95_test_vectors.md section 0 (log entries 2 and 3). -/
def nominalParams : Params :=
  { q := 1
    kup2 := List.replicate 2 F32.one
    kup4 := List.replicate 4 F32.one
    kup8 := List.replicate 8 F32.one
    kdn2 := List.replicate 2 0x3F000000#32
    kdn4 := List.replicate 4 0x3E800000#32
    kdn8 := List.replicate 8 0x3E000000#32
    firCutoff := 0x3FECCCCCCCCCCCCD#64
    osfDefault := 2
    tanhBound := 0x4013E147AE147AE1#64
    vt2 := 0x3D54FDF4#32
    gc0 := 0x3F4A99050A8609D3#64
    gc1 := 0x3FEF1DFDE2188E6C#64
    gc2 := 0xBFE03FB4B6559203#64
    gc3 := 0x3FC3A2CD1F0223C7#64
    gresFixed := 0x3FF2666666666666#64
    gres := none
    inScale := F32.one
    envMin := 0x38D1B717#32
    hystT := 0x3F33A92A30553261#64
    dynK := 0x400199999999999A#64
    dynRef := 0x4014000000000000#64
    laMax := 1024
    rv := nominalResetValues }

/-- R130's admissible PEAK_LVL: finite and at least P_ENV_MIN. -/
def peakLvlLegal (envMin v : F32) : Bool := isFinite32 v && f32Le envMin v

/-- R150's admissible DYN_TA_MS and DYN_TR_MS: not a NaN, sign bit clear. -/
def dynTimeLegal (v : F32) : Bool := !isNaN32 v && !neg32 v

/-- What R10, R140 and R451 require of the parameters; P_ENV_MIN and P_HYST_T, approximations of positive literals
(R6), are taken positive and finite (log entry 2). -/
def paramsOk (p : Params) : Bool :=
  decide (1 ≤ p.q) &&
  decide (p.kup2.length = 2 * p.q) && decide (p.kup4.length = 4 * p.q) && decide (p.kup8.length = 8 * p.q) &&
  decide (p.kdn2.length = 2 * p.q) && decide (p.kdn4.length = 4 * p.q) && decide (p.kdn8.length = 8 * p.q) &&
  decide (p.osfDefault ≠ 0) &&
  isFinite32 p.inScale && decide (mag32 p.inScale ≠ 0) &&
  isFinite32 p.envMin && !neg32 p.envMin && decide (mag32 p.envMin ≠ 0) &&
  decide (mag64 p.hystT < 0x7FF0000000000000) && !neg64 p.hystT &&
  peakLvlLegal p.envMin p.rv.vca.peakLvl && peakLvlLegal p.envMin p.rv.vcf.peakLvl &&
  dynTimeLegal p.rv.dynTaMs && dynTimeLegal p.rv.dynTrMs &&
  decide (p.rv.dynDepth.toNat ≤ p.laMax.toNat)

end Sys2Proof.Machine
end

