-- ==== Sys2Proof/Machine/Units.lean ====
section
/-! DEFINITION. The state of the CORE's units and its reset values (spec/10_state.md sections 4 to 7;
spec/70_reset_and_hazards.md R1000). -/

namespace Sys2Proof.Machine

/-! ### Ladder channels (R120 to R123) -/

/-- The eight Filter State values LSTATE[c][0..7] (R121). -/
structure LadderState where
  ya   : F32
  yb   : F32
  yc   : F32
  yd   : F32
  wa   : F32
  wb   : F32
  wc   : F32
  ydpp : F32
  deriving DecidableEq, Repr

/-- One ladder channel bank. -/
structure Channel where
  /-- LAD_IN, LAD_FC, LAD_RES, LAD_OUT (R120). -/
  ladIn  : F32
  ladFc  : F32
  ladRes : F32
  ladOut : F32
  /-- LSTATE[c][0..7] (R121). -/
  lstate : LadderState
  /-- OSBUF[c][0..7] (R122). -/
  osbuf  : Vector F32 8
  /-- UH[c][0..P_Q−1], newest first (R123(a)). -/
  uh     : List F32
  /-- DH[c][0..8·P_Q−1], newest first (R123(b)). -/
  dh     : List F32
  deriving DecidableEq, Repr

def LadderState.zero : LadderState :=
  { ya := F32.zero, yb := F32.zero, yc := F32.zero, yd := F32.zero
    wa := F32.zero, wb := F32.zero, wc := F32.zero, ydpp := F32.zero }

/-- The oversampler state of R460 at +0.0: UH, DH and OSBUF. -/
def clearOversampler (p : Params) (ch : Channel) : Channel :=
  { ch with
    osbuf := Vector.replicate 8 F32.zero
    uh := List.replicate p.q F32.zero
    dh := List.replicate (8 * p.q) F32.zero }

/-- The processing state of a channel at +0.0, as CLRST and the divergence recovery leave it (R530, R820). -/
def clearProcessing (p : Params) (ch : Channel) : Channel :=
  { clearOversampler p ch with ladOut := F32.zero, lstate := LadderState.zero }

/-- A channel bank after reset (R1000). -/
def resetChannel (p : Params) : Channel :=
  { ladIn := F32.zero, ladFc := F32.zero, ladRes := F32.zero, ladOut := F32.zero
    lstate := LadderState.zero
    osbuf := Vector.replicate 8 F32.zero
    uh := List.replicate p.q F32.zero
    dh := List.replicate (8 * p.q) F32.zero }

/-! ### Envelope banks (R130 to R132) -/

inductive Bank
  | vca
  | vcf
  deriving DecidableEq, Repr

/-- The modes of R131; their codes are those of ESTAT[2:0] (R132). -/
inductive EnvMode
  | attack
  | peak
  | decay
  | noteEnd
  | silence
  deriving DecidableEq, Repr

/-- One envelope bank: the parameters of R130, then the state of R131. -/
structure EnvBank where
  tAtt    : F32
  tAccAtt : F32
  tPeak   : F32
  tDec    : F32
  tAccDec : F32
  tEnd    : F32
  peakLvl : F32
  mode    : EnvMode
  acc     : Bool
  gprev   : Bool
  step    : Word
  target  : Word
  factor  : F32
  start   : F32
  peakt   : F32
  current : F32
  level   : F32
  deriving DecidableEq, Repr

/-- The state part of a bank at its reset values (R131); the parameters are kept. -/
def clearEnv (p : Params) (e : EnvBank) : EnvBank :=
  { e with
    mode := .silence, acc := false, gprev := false, step := 0, target := 1
    factor := F32.zero, start := F32.zero, peakt := F32.one, current := p.envMin, level := F32.zero }

/-- A bank after reset (R1000). -/
def resetEnv (p : Params) (r : EnvResetValues) : EnvBank :=
  { tAtt := r.tAtt, tAccAtt := r.tAccAtt, tPeak := r.tPeak, tDec := r.tDec, tAccDec := r.tAccDec, tEnd := r.tEnd
    peakLvl := r.peakLvl
    mode := .silence, acc := false, gprev := false, step := 0, target := 1
    factor := F32.zero, start := F32.zero, peakt := F32.one, current := p.envMin, level := F32.zero }

/-! ### Bass modulation (R134) -/

structure BassRegs where
  cutBase  : F32
  envmod   : F32
  vcfScale : F32
  vcfBias  : F32
  cutMin   : F32
  cutMax   : F32
  fcEff    : F32
  bassOut  : F32
  deriving DecidableEq, Repr

def resetBass (p : Params) : BassRegs :=
  { cutBase := p.rv.cutBase, envmod := p.rv.envmod, vcfScale := p.rv.vcfScale, vcfBias := p.rv.vcfBias
    cutMin := p.rv.cutMin, cutMax := p.rv.cutMax, fcEff := F32.zero, bassOut := F32.zero }

/-! ### Dynamics (R150, R151) -/

/-- DYN_STAT.MODE: 0 release, 1 attack. -/
inductive DynMode
  | release
  | attack
  deriving DecidableEq, Repr

/-- A stereo pair of the lookahead queue. -/
structure Pair where
  l : F32
  r : F32
  deriving DecidableEq, Repr

structure DynUnit where
  inL   : F32
  inR   : F32
  sc    : F32
  taMs  : F32
  trMs  : F32
  ltDb  : F32
  depth : Word
  outL  : F32
  outR  : F32
  peak  : F32
  gain  : F32
  ctl   : F32
  mode  : DynMode
  hcnt  : Word
  /-- The lookahead queue, head (oldest) first. -/
  queue : List Pair
  deriving DecidableEq, Repr

/-- The detector state and outputs at their reset values (R151); parameters and inputs are kept. -/
def clearDyn (d : DynUnit) : DynUnit :=
  { d with
    outL := F32.zero, outR := F32.zero, peak := F32.zero, gain := F32.one, ctl := F32.one
    mode := .release, hcnt := 0, queue := [] }

def resetDyn (p : Params) : DynUnit :=
  { inL := F32.zero, inR := F32.zero, sc := F32.zero
    taMs := p.rv.dynTaMs, trMs := p.rv.dynTrMs, ltDb := p.rv.dynLtDb, depth := p.rv.dynDepth
    outL := F32.zero, outR := F32.zero, peak := F32.zero, gain := F32.one, ctl := F32.one
    mode := .release, hcnt := 0, queue := [] }

end Sys2Proof.Machine
end

