-- ==== Sys2Proof/Machine/State.lean ====
section
/-! DEFINITION. The state of the CORE, the inputs that reach it, and the reasons a step can stop
(spec/10_state.md R100 to R161; spec/20_memory.md R200 to R210; spec/70_reset_and_hazards.md R1000, R1001). -/

namespace Sys2Proof.Machine

/-- The width of a bus access; only `b32` is legal (R202). -/
inductive Width
  | b8
  | b16
  | b32
  deriving DecidableEq, Repr

/-- A bus access of the host: a read or a write at a physical address, of which the CORE decodes the low 12 bits (R200). -/
inductive Access
  | read (w : Width) (addr : Nat)
  | write (w : Width) (addr : Nat) (v : Word)
  deriving DecidableEq, Repr

/-- What the outside world does to the CORE, in order of arrival: bus accesses (R210) and edges of RST_N (R1001). -/
inductive Input
  | access (a : Access)
  | rstLow
  | rstHigh
  deriving DecidableEq, Repr

/-- The whole state. The first four fields are the model's own (log entries 1 and 2); every other field is a register or
an internal state element of R101, R123 and R151. -/
structure State where
  /-- The implementation parameters (R10), constant over every step. -/
  params  : Params
  /-- The inputs that have arrived and are not served yet, the first served first (R210). -/
  inputs  : List Input
  /-- The word the last bus read returned (log entry 9). -/
  rdata   : Word
  /-- The level of the reset input RST_N; `false` holds the CORE in reset (R1001). -/
  rstN    : Bool
  /-- STATUS, IRQ_EN, EVT_INFO, EVT_DATA, CFG, FS_HOST (R110 to R115). -/
  status  : Word
  irqEn   : Word
  evtInfo : Word
  evtData : Word
  cfg     : Word
  fsHost  : F32
  /-- TANH_IN, TANH_OUT (R116). -/
  tanhIn  : F32
  tanhOut : F32
  /-- The P_NCH ladder channel banks (R120 to R123). -/
  chans   : List Channel
  /-- The two envelope banks (R130 to R132) and ENV_IN (R133). -/
  vca     : EnvBank
  vcf     : EnvBank
  envIn   : Word
  /-- The Bass modulation registers (R134). -/
  bass    : BassRegs
  /-- The dynamics unit (R150, R151). -/
  dyn     : DynUnit
  deriving DecidableEq, Repr

/-- P_NCH (R10): the number of channel banks. -/
abbrev State.nch (s : State) : Nat := s.chans.length

/-- The reasons the machine could stop with a fault: there are none. R900: no command is aborted by an error, and every
event is recorded in STATUS while the machine goes on. DEDUCED (log entry 17). Safe: no outcome of this kind exists. -/
inductive Fault
  deriving DecidableEq, Repr

/-- The reasons a step has no meaning. -/
inductive Refusal
  /-- Raised by `exec` alone, for an instruction that has no meaning yet. Safe. -/
  | notModelled (mnemonic : String)
  /-- Raised by LSTEP, FILT and BASS when CFG.TRES = 1 and the parameters hold no P_GRES_C0..C4:
  spec/93_implementation_defined.md I7 has a model refuse the ladder step rather than guess a polynomial (log entry 6).
  Safe. -/
  | gresNotSupplied
  deriving DecidableEq, Repr

/-- The state after ResetCore (R1000) of a CORE with parameters `p` and `n` channels, RST_N high and no input waiting. -/
def State.ofParams (p : Params) (n : Nat) : State :=
  { params := p, inputs := [], rdata := 0, rstN := true
    status := 0, irqEn := 0, evtInfo := 0, evtData := 0
    cfg := 0x00000010#32 ||| p.osfDefault.setWidth 32
    fsHost := Config.fsMin
    tanhIn := F32.zero, tanhOut := F32.zero
    chans := List.replicate n (resetChannel p)
    vca := resetEnv p p.rv.vca, vcf := resetEnv p p.rv.vcf, envIn := 0
    bass := resetBass p
    dyn := resetDyn p }

/-- The machine right after reset: the nominal parameters and P_NCH = 2 (R10, R1000). -/
def State.reset : State := State.ofParams nominalParams 2

end Sys2Proof.Machine
end

