-- ==== Sys2Proof/Machine/Flags.lean ====
section
/-! DEFINITION. STATUS, the event registers and the interrupt output (spec/60_exceptions.md R901, R910;
spec/10_state.md R110, R111, R113). -/

namespace Sys2Proof.Machine

/-- The five events of R901. -/
inductive EventCode
  | illcmd
  | buserr
  | cfgadj
  | laddiv
  | dynrst
  deriving DecidableEq, Repr

/-- The code in EVT_INFO[7:0]. -/
def EventCode.num : EventCode → Nat
  | .illcmd => 1
  | .buserr => 2
  | .cfgadj => 3
  | .laddiv => 4
  | .dynrst => 5

/-- The STATUS bit number of an event (R901, R110); `ch` matters for LADDIV alone. -/
def EventCode.bit (ch : Nat) : EventCode → Nat
  | .illcmd => 0
  | .buserr => 1
  | .cfgadj => 2
  | .dynrst => 3
  | .laddiv => 16 + ch

/-- STATUS_BIT(code, ch) of R901. -/
def statusBit (code : EventCode) (ch : Nat) : Word := BitVec.ofNat 32 (2 ^ code.bit ch)

/-- `{8'h00, a[11:0], ch[3:0], code[7:0]}` (R901, R111). -/
def eventInfo (code : EventCode) (ch off : Nat) : Word :=
  BitVec.ofNat 32 (off % 0x1000 * 2 ^ 12 + ch % 16 * 2 ^ 8 + code.num)

/-- `raise Event(code, channel ch, offset off, data d)` of R901: the one operation that records an event. -/
def raiseEvent (code : EventCode) (ch off : Nat) (d : Word) (s : State) : State :=
  { s with
    status := s.status ||| statusBit code ch
    evtInfo := eventInfo code ch off
    evtData := d }

/-- The STATUS and IRQ_EN bits that exist: 3:0 and DIV[c] for `c < P_NCH` (R110, R113). -/
def statusMask (nch : Nat) : Word := BitVec.ofNat 32 (0xF + (2 ^ nch - 1) * 2 ^ 16)

/-- The interrupt output of R113 and R910. -/
def State.irq (s : State) : Bool := (s.status &&& s.irqEn) != 0

end Sys2Proof.Machine
end

