-- ==== Sys2Proof/Machine/Operands.lean ====
section
/-! DEFINITION. The operands of commands: the fields of CFG and ENV_IN, the oversample factor, the channel a command
names, the legality of a command (spec/00_scope.md R11; spec/10_state.md R114, R133; spec/30_encoding.md R302, R305). -/

namespace Sys2Proof.Machine

/-- The oversample factors of CFG.OSF. -/
inductive Osf
  | x2
  | x4
  | x8
  deriving DecidableEq, Repr

/-- OSF_FACTOR of R11. -/
def Osf.factor : Osf → Nat
  | .x2 => 2
  | .x4 => 4
  | .x8 => 8

/-- CFG[1:0] as a factor: 1 is 2×, 2 is 4×, 3 is 8× (R114). Code 0 is never stored (R114, `invCfg` in Safety.lean).
DESIGN CHOICE (log entry 10): it reads as the factor that R114 puts in its place. -/
def osfOf (cfg : Word) : Osf :=
  match cfg.toNat % 4 with
  | 1 => .x2
  | 3 => .x8
  | _ => .x4

/-- CFG[i], for the one-bit fields of R114. -/
def cfgBit (cfg : Word) (i : Nat) : Bool := cfg.getLsbD i

def cfgTres (cfg : Word) : Bool := cfgBit cfg 2
def cfgP1oct (cfg : Word) : Bool := cfgBit cfg 3
def cfgGmode (cfg : Word) : Bool := cfgBit cfg 4
def cfgLin (cfg : Word) : Bank → Bool
  | .vca => cfgBit cfg 5
  | .vcf => cfgBit cfg 6
def cfgSc (cfg : Word) : Bool := cfgBit cfg 7

/-- ENV_IN bit 0 GATE and bit 1 ACCENT (R133). -/
def gateOf (envIn : Word) : Bool := envIn.getLsbD 0
def accentOf (envIn : Word) : Bool := envIn.getLsbD 1

/-- The upsampler kernel P_KUP_N of the factor (R451). -/
def kup (p : Params) : Osf → List F32
  | .x2 => p.kup2
  | .x4 => p.kup4
  | .x8 => p.kup8

/-- The decimator kernel P_KDN_N of the factor (R451). -/
def kdn (p : Params) : Osf → List F32
  | .x2 => p.kdn2
  | .x4 => p.kdn4
  | .x8 => p.kdn8

/-- The current oversample factor N (R11). -/
def State.factor (s : State) : Nat := (osfOf s.cfg).factor

/-- The bank of channel `c`. Commands reach it only for `c < P_NCH` (R305). DESIGN CHOICE (log entry 18): an absent bank
reads as a reset one. -/
def State.chan (s : State) (c : Nat) : Channel := s.chans.getD c (resetChannel s.params)

/-- Replaces the bank of channel `c`. -/
def State.setChan (s : State) (c : Nat) (ch : Channel) : State := { s with chans := s.chans.set c ch }

/-- LAD_RES[0], the resonance of the accented attack (R600). -/
def State.res0 (s : State) : F32 := (s.chan 0).ladRes

/-- R305 for the current P_NCH and N. -/
def State.legal (s : State) (i : Instr) : Bool := i.wellFormed s.nch s.factor

/-- Event(ILLCMD, data w) of R300: no other state changes. -/
def illegalWord (w : Word) (s : State) : State := raiseEvent .illcmd 0 0 w s

end Sys2Proof.Machine
end

