-- ==== Sys2Proof/Machine/Ops.lean ====
section
/-! DEFINITION. The shared operations: ResetCore and the clear of CLRST (spec/70_reset_and_hazards.md R1000;
spec/45_control.md R820), the register window with its read and write rules (spec/10_state.md R101, R110 to R160;
spec/20_memory.md R200 to R204). The CORE takes no traps (spec/60_exceptions.md R920): what it has in their place is
`raiseEvent` of Machine/Flags.lean, from which nothing returns. -/

namespace Sys2Proof.Machine

/-! ### Reset and clear -/

/-- ResetCore() of R1000. The parameters, the host's side of the bus and the pin RST_N are no state of the CORE. -/
def resetCore (s : State) : State :=
  { State.ofParams s.params s.nch with inputs := s.inputs, rdata := s.rdata, rstN := s.rstN }

/-- The clear of R820: every processing state and result register at its reset value. -/
def clearState (s : State) : State :=
  { s with
    chans := s.chans.map (clearProcessing s.params)
    vca := clearEnv s.params s.vca
    vcf := clearEnv s.params s.vcf
    dyn := clearDyn s.dyn
    tanhOut := F32.zero
    bass := { s.bass with fcEff := F32.zero, bassOut := F32.zero } }

/-! ### The register map of R101 -/

/-- The registers of one envelope bank. -/
inductive EnvReg
  | tAtt | tAccAtt | tPeak | tDec | tAccDec | tEnd | peakLvl
  | level | current | estat | step | target | factor | start | peakt
  deriving DecidableEq, Repr

/-- The registers of R101 by name; `reserved` is every other offset. -/
inductive Reg
  | cmd | status | irqEn | evtInfo | evtData | id | cfg | fsHost | tanhIn | tanhOut
  | ladIn (c : Nat) | ladFc (c : Nat) | ladRes (c : Nat) | ladOut (c : Nat)
  | env (b : Bank) (r : EnvReg)
  | envIn
  | cutBase | envmod | vcfScale | vcfBias | cutMin | cutMax | fcEff | bassOut
  | dynInL | dynInR | dynSc | dynTaMs | dynTrMs | dynLtDb | dynDepth
  | dynOutL | dynOutR | dynPeak | dynGain | dynCtl | dynStat | dynHcnt | dynOcc
  | lstate (c k : Nat)
  | osbuf (c i : Nat)
  | reserved
  deriving DecidableEq, Repr

/-- The global registers, offsets 0x000 to 0x0FF. -/
def globalRegAt (off : Nat) : Reg :=
  match off with
  | 0x000 => .cmd
  | 0x004 => .status
  | 0x008 => .irqEn
  | 0x00C => .evtInfo
  | 0x010 => .evtData
  | 0x014 => .id
  | 0x018 => .cfg
  | 0x01C => .fsHost
  | 0x020 => .tanhIn
  | 0x024 => .tanhOut
  | _ => .reserved

/-- The ladder registers at `0x100 + 0x10·c`; `d` is the distance from 0x100. -/
def ladderRegAt (d : Nat) : Reg :=
  match d % 0x10 with
  | 0x0 => .ladIn (d / 0x10)
  | 0x4 => .ladFc (d / 0x10)
  | 0x8 => .ladRes (d / 0x10)
  | 0xC => .ladOut (d / 0x10)
  | _ => .reserved

/-- The registers of an envelope bank; `d` is the distance from 0x200 + B. -/
def envRegAt (b : Bank) (d : Nat) : Reg :=
  match d with
  | 0x00 => .env b .tAtt
  | 0x04 => .env b .tAccAtt
  | 0x08 => .env b .tPeak
  | 0x0C => .env b .tDec
  | 0x10 => .env b .tAccDec
  | 0x14 => .env b .tEnd
  | 0x18 => .env b .peakLvl
  | 0x1C => .env b .level
  | 0x20 => .env b .current
  | 0x24 => .env b .estat
  | 0x28 => .env b .step
  | 0x2C => .env b .target
  | 0x30 => .env b .factor
  | 0x34 => .env b .start
  | 0x38 => .env b .peakt
  | _ => .reserved

/-- ENV_IN and the Bass modulation registers, offsets 0x280 to 0x2FF. -/
def bassRegAt (off : Nat) : Reg :=
  match off with
  | 0x280 => .envIn
  | 0x290 => .cutBase
  | 0x294 => .envmod
  | 0x298 => .vcfScale
  | 0x29C => .vcfBias
  | 0x2A0 => .cutMin
  | 0x2A4 => .cutMax
  | 0x2A8 => .fcEff
  | 0x2AC => .bassOut
  | _ => .reserved

/-- The dynamics registers, offsets 0x300 to 0x3FF. -/
def dynRegAt (off : Nat) : Reg :=
  match off with
  | 0x300 => .dynInL
  | 0x304 => .dynInR
  | 0x308 => .dynSc
  | 0x30C => .dynTaMs
  | 0x310 => .dynTrMs
  | 0x314 => .dynLtDb
  | 0x318 => .dynDepth
  | 0x31C => .dynOutL
  | 0x320 => .dynOutR
  | 0x324 => .dynPeak
  | 0x328 => .dynGain
  | 0x32C => .dynCtl
  | 0x330 => .dynStat
  | 0x334 => .dynHcnt
  | 0x338 => .dynOcc
  | _ => .reserved

/-- The register at an offset that is a multiple of 4 (R101, R206). -/
def regAt (off : Nat) : Reg :=
  if off < 0x100 then globalRegAt off
  else if off < 0x200 then ladderRegAt (off - 0x100)
  else if off < 0x240 then envRegAt .vca (off - 0x200)
  else if off < 0x280 then envRegAt .vcf (off - 0x240)
  else if off < 0x300 then bassRegAt off
  else if off < 0x400 then dynRegAt off
  else if off < 0x800 then .reserved
  else if off < 0xA00 then .lstate ((off - 0x800) / 0x20) ((off - 0x800) % 0x20 / 4)
  else if off < 0xC00 then .osbuf ((off - 0xA00) / 0x20) ((off - 0xA00) % 0x20 / 4)
  else .reserved

/-! ### Reads (R101, R160) -/

/-- LSTATE[c][k] (R121). -/
def LadderState.get (l : LadderState) (k : Nat) : F32 :=
  match k with
  | 0 => l.ya
  | 1 => l.yb
  | 2 => l.yc
  | 3 => l.yd
  | 4 => l.wa
  | 5 => l.wb
  | 6 => l.wc
  | _ => l.ydpp

/-- OSBUF[c][i] for `i < 8` (R122). -/
def Channel.os (ch : Channel) (i : Nat) : F32 := ch.osbuf.toList.getD i F32.zero

/-- The code of ESTAT[2:0] (R132). -/
def EnvMode.code : EnvMode → Nat
  | .attack => 0
  | .peak => 1
  | .decay => 2
  | .noteEnd => 3
  | .silence => 4

/-- ESTAT (R132): mode in 2:0, ACC in bit 4, GPREV in bit 5. -/
def estatOf (e : EnvBank) : Word :=
  BitVec.ofNat 32 (e.mode.code + e.acc.toNat * 2 ^ 4 + e.gprev.toNat * 2 ^ 5)

def envRead (e : EnvBank) : EnvReg → Word
  | .tAtt => e.tAtt
  | .tAccAtt => e.tAccAtt
  | .tPeak => e.tPeak
  | .tDec => e.tDec
  | .tAccDec => e.tAccDec
  | .tEnd => e.tEnd
  | .peakLvl => e.peakLvl
  | .level => e.level
  | .current => e.current
  | .estat => estatOf e
  | .step => e.step
  | .target => e.target
  | .factor => e.factor
  | .start => e.start
  | .peakt => e.peakt

def DynMode.bit : DynMode → Word
  | .release => 0
  | .attack => 1

/-- The bank of an envelope. -/
def State.env (s : State) : Bank → EnvBank
  | .vca => s.vca
  | .vcf => s.vcf

def State.setEnv (s : State) (b : Bank) (e : EnvBank) : State :=
  match b with
  | .vca => { s with vca := e }
  | .vcf => { s with vcf := e }

/-- The value of a channel register, or 0 for a channel that is absent (R160(b)). -/
def State.chanRead (s : State) (c : Nat) (f : Channel → F32) : Word :=
  match s.chans[c]? with
  | some ch => f ch
  | none => 0

/-- What a legal read returns (R101); CMD and reserved offsets read 0 (R160). -/
def readReg (s : State) : Reg → Word
  | .cmd => 0
  | .status => s.status
  | .irqEn => s.irqEn
  | .evtInfo => s.evtInfo
  | .evtData => s.evtData
  | .id => Config.idValue
  | .cfg => s.cfg
  | .fsHost => s.fsHost
  | .tanhIn => s.tanhIn
  | .tanhOut => s.tanhOut
  | .ladIn c => s.chanRead c (·.ladIn)
  | .ladFc c => s.chanRead c (·.ladFc)
  | .ladRes c => s.chanRead c (·.ladRes)
  | .ladOut c => s.chanRead c (·.ladOut)
  | .env b r => envRead (s.env b) r
  | .envIn => s.envIn
  | .cutBase => s.bass.cutBase
  | .envmod => s.bass.envmod
  | .vcfScale => s.bass.vcfScale
  | .vcfBias => s.bass.vcfBias
  | .cutMin => s.bass.cutMin
  | .cutMax => s.bass.cutMax
  | .fcEff => s.bass.fcEff
  | .bassOut => s.bass.bassOut
  | .dynInL => s.dyn.inL
  | .dynInR => s.dyn.inR
  | .dynSc => s.dyn.sc
  | .dynTaMs => s.dyn.taMs
  | .dynTrMs => s.dyn.trMs
  | .dynLtDb => s.dyn.ltDb
  | .dynDepth => s.dyn.depth
  | .dynOutL => s.dyn.outL
  | .dynOutR => s.dyn.outR
  | .dynPeak => s.dyn.peak
  | .dynGain => s.dyn.gain
  | .dynCtl => s.dyn.ctl
  | .dynStat => s.dyn.mode.bit
  | .dynHcnt => s.dyn.hcnt
  | .dynOcc => BitVec.ofNat 32 s.dyn.queue.length
  | .lstate c k => s.chanRead c (fun ch => ch.lstate.get k)
  | .osbuf c i => s.chanRead c (fun ch => ch.os i)
  | .reserved => 0

/-! ### Writes (R110 to R160) -/

/-- Event(CFGADJ, offset off, data v) of R901. -/
def cfgAdjusted (off : Nat) (v : Word) (s : State) : State := raiseEvent .cfgadj 0 off v s

/-- The value R114 stores in CFG for a written `v`: bits 7:0, with an OSF code of 0 replaced by P_OSF_DEFAULT. -/
def cfgStored (p : Params) (v : Word) : Word :=
  let w := v &&& 0x000000FF#32
  if v.toNat % 4 = 0 then w ||| p.osfDefault.setWidth 32 else w

/-- The write rule of CFG (R114), with the clear of R460 when the factor changes. -/
def writeCfg (v : Word) (s : State) : State :=
  let w := cfgStored s.params v
  let t := if w.toNat % 4 = s.cfg.toNat % 4 then s else { s with chans := s.chans.map (clearOversampler s.params) }
  let t := { t with cfg := w }
  if v.toNat % 4 = 0 then cfgAdjusted 0x018 v t else t

/-- The value R115 stores in FS_HOST. -/
def fsStored (w : F32) : F32 :=
  if isNaN32 w || f32Lt w Config.fsMin then 0x472C4400#32
  else if f32Lt Config.fsMax w then 0x493B8000#32
  else w

/-- The write rule of FS_HOST (R115). -/
def writeFsHost (v : Word) (s : State) : State :=
  let t := { s with fsHost := fsStored v }
  if fsStored v = v then t else cfgAdjusted 0x01C v t

/-- The write rule of PEAK_LVL (R130). -/
def writePeakLvl (b : Bank) (off : Nat) (v : Word) (s : State) : State :=
  if peakLvlLegal s.params.envMin v then s.setEnv b { s.env b with peakLvl := v }
  else cfgAdjusted off v (s.setEnv b { s.env b with peakLvl := s.params.envMin })

/-- The offset of PEAK_LVL: 0x218 + B. -/
def peakLvlOffset : Bank → Nat
  | .vca => 0x218
  | .vcf => 0x258

/-- A write to an envelope register; the state registers are RO (R101, R131). -/
def writeEnv (b : Bank) (r : EnvReg) (v : Word) (s : State) : State :=
  match r with
  | .tAtt => s.setEnv b { s.env b with tAtt := v }
  | .tAccAtt => s.setEnv b { s.env b with tAccAtt := v }
  | .tPeak => s.setEnv b { s.env b with tPeak := v }
  | .tDec => s.setEnv b { s.env b with tDec := v }
  | .tAccDec => s.setEnv b { s.env b with tAccDec := v }
  | .tEnd => s.setEnv b { s.env b with tEnd := v }
  | .peakLvl => writePeakLvl b (peakLvlOffset b) v s
  | .level => s
  | .current => s
  | .estat => s
  | .step => s
  | .target => s
  | .factor => s
  | .start => s
  | .peakt => s

/-- The write rule of DYN_TA_MS and DYN_TR_MS (R150): the value stored, and whether it was replaced. -/
def dynTimeStored (v : F32) : F32 := if dynTimeLegal v then v else F32.zero

def writeDynTaMs (v : Word) (s : State) : State :=
  let t := { s with dyn := { s.dyn with taMs := dynTimeStored v } }
  if dynTimeLegal v then t else cfgAdjusted 0x30C v t

def writeDynTrMs (v : Word) (s : State) : State :=
  let t := { s with dyn := { s.dyn with trMs := dynTimeStored v } }
  if dynTimeLegal v then t else cfgAdjusted 0x310 v t

/-- The write rule of DYN_DEPTH (R150). -/
def writeDynDepth (v : Word) (s : State) : State :=
  if v.toNat ≤ s.params.laMax.toNat then { s with dyn := { s.dyn with depth := v } }
  else cfgAdjusted 0x318 v { s with dyn := { s.dyn with depth := s.params.laMax } }

/-- A write to a register of a channel bank; absent channels ignore it (R160(b)). -/
def State.chanWrite (s : State) (c : Nat) (f : Channel → Channel) : State :=
  { s with chans := s.chans.modify c f }

/-- A legal write to a register other than CMD (R204): RO and reserved offsets ignore it (R160). -/
def writeReg (v : Word) (s : State) : Reg → State
  | .cmd => s
  | .status => { s with status := s.status &&& ~~~v }
  | .irqEn => { s with irqEn := v &&& statusMask s.nch }
  | .evtInfo => s
  | .evtData => s
  | .id => s
  | .cfg => writeCfg v s
  | .fsHost => writeFsHost v s
  | .tanhIn => { s with tanhIn := v }
  | .tanhOut => s
  | .ladIn c => s.chanWrite c (fun ch => { ch with ladIn := v })
  | .ladFc c => s.chanWrite c (fun ch => { ch with ladFc := v })
  | .ladRes c => s.chanWrite c (fun ch => { ch with ladRes := v })
  | .ladOut _ => s
  | .env b r => writeEnv b r v s
  | .envIn => { s with envIn := v &&& 3 }
  | .cutBase => { s with bass := { s.bass with cutBase := v } }
  | .envmod => { s with bass := { s.bass with envmod := v } }
  | .vcfScale => { s with bass := { s.bass with vcfScale := v } }
  | .vcfBias => { s with bass := { s.bass with vcfBias := v } }
  | .cutMin => { s with bass := { s.bass with cutMin := v } }
  | .cutMax => { s with bass := { s.bass with cutMax := v } }
  | .fcEff => s
  | .bassOut => s
  | .dynInL => { s with dyn := { s.dyn with inL := v } }
  | .dynInR => { s with dyn := { s.dyn with inR := v } }
  | .dynSc => { s with dyn := { s.dyn with sc := v } }
  | .dynTaMs => writeDynTaMs v s
  | .dynTrMs => writeDynTrMs v s
  | .dynLtDb => { s with dyn := { s.dyn with ltDb := v } }
  | .dynDepth => writeDynDepth v s
  | .dynOutL => s
  | .dynOutR => s
  | .dynPeak => s
  | .dynGain => s
  | .dynCtl => s
  | .dynStat => s
  | .dynHcnt => s
  | .dynOcc => s
  | .lstate _ _ => s
  | .osbuf _ _ => s
  | .reserved => s

/-! ### Bus accesses (R200 to R204) -/

/-- The offset an address selects: the low 12 bits (R200). -/
def offsetOf (addr : Nat) : Nat := addr % 0x1000

/-- R202: the only legal access is 32 bits wide at a multiple of 4. -/
def accessLegal (w : Width) (addr : Nat) : Bool := decide (w = .b32) && decide (addr % 4 = 0)

/-- BusErrorAccess of R202 for a read. -/
def busErrorRead (addr : Nat) (s : State) : State :=
  raiseEvent .buserr 0 (offsetOf addr) 0 { s with rdata := 0 }

/-- BusErrorAccess of R202 for a write: the write is dropped. DEDUCED (log entry 15): EVT_DATA is the whole word. -/
def busErrorWrite (addr : Nat) (v : Word) (s : State) : State :=
  raiseEvent .buserr 0 (offsetOf addr) v s

/-- A legal read (R204): the value is returned, and nothing of the CORE changes. -/
def busRead (addr : Nat) (s : State) : State := { s with rdata := readReg s (regAt (offsetOf addr)) }

/-- An access while RST_N is low (R1001): no effect, and a read returns 0. -/
def heldAccess (a : Access) (s : State) : State :=
  match a with
  | .read _ _ => { s with rdata := 0 }
  | .write _ _ _ => s

end Sys2Proof.Machine
end

