-- ==== Sys2Proof/Machine/Envelope.lean ====
section
/-! DEFINITION. The envelope state machines (spec/43_envelope.md R600 to R621). -/

namespace Sys2Proof.Machine

/-- What an envelope tick reads besides its bank (R600). -/
structure EnvCtx where
  p      : Params
  bank   : Bank
  gate   : Bool
  accent : Bool
  gmode  : Bool
  lin    : Bool
  fs     : F32
  res0   : F32
  deriving DecidableEq, Repr

/-- `steps(T)` of R601. -/
def stepsOf (fs : F32) (t : F64) : Word :=
  let v := f64Mul t (widen fs)
  if isNaN64 v then 1
  else if f64Lt v 0x3FF0000000000000#64 then 1
  else if f64Lt 0x4170000000000000#64 v then 16777216
  else BitVec.ofNat 32 (f64Floor v)

/-- The decay factor of EnterDecay (R602, R606): the linear amount or the exponential factor, floored at 0. -/
def decayFactor (tr : TR) (k : EnvCtx) (current : F32) (target : Word) : F32 :=
  let cur := widen current
  let m := widen k.p.envMin
  let t := f64OfNat target.toNat
  if k.lin then narrow32 (f64Max 0 (f64Div (f64Sub cur m) t))
  else narrow32 (f64Max 0 (f64Add 0x3FF0000000000000#64 (f64Div (f64Sub (trLn tr m) (trLn tr cur)) t)))

/-- EnterDecay(E) of R602. -/
def enterDecay (tr : TR) (k : EnvCtx) (e : EnvBank) : EnvBank :=
  let target := stepsOf k.fs (widen (if e.acc then e.tAccDec else e.tDec))
  { e with mode := .decay, step := 0, target := target, factor := decayFactor tr k e.current target }

/-- EnterNoteEnd(E) of R602. -/
def enterNoteEnd (k : EnvCtx) (e : EnvBank) : EnvBank :=
  { e with mode := .noteEnd, step := 0, target := stepsOf k.fs (widen e.tEnd), start := e.current }

/-- The attack time `Tatt` of R602, in binary64 seconds; the accented one adds `LAD_RES[0] · T_ACC_ATT`. -/
def attackTime (k : EnvCtx) (e : EnvBank) : F64 :=
  f64Add (widen e.tAtt) (if k.accent then f64Mul (widen k.res0) (widen e.tAccAtt) else 0)

/-- The rising edge of R603: ACCENT is captured and ATTACK entered from the current level. -/
def enterAttack (k : EnvCtx) (e : EnvBank) : EnvBank :=
  { e with
    acc := k.accent, mode := .attack, step := 0
    target := stepsOf k.fs (attackTime k e)
    start := e.current
    peakt := if k.accent then e.peakLvl else F32.one }

/-- The modes a falling gate ends in gate mode (R603). -/
def EnvMode.gated : EnvMode → Bool
  | .attack => true
  | .peak => true
  | .decay => true
  | .noteEnd => false
  | .silence => false

/-- Step 1 of R602: the edge-triggered transitions (R603). -/
def envEdge (k : EnvCtx) (e : EnvBank) : EnvBank :=
  let e' := { e with gprev := k.gate }
  if k.gate && !e.gprev then enterAttack k e'
  else if (!k.gate && e.gprev) && k.gmode && e.mode.gated then enterNoteEnd k e'
  else e'

/-- `t = f32(step) / f32(target)` of R602. -/
def rampTime (e : EnvBank) : F32 := f32Div (f32OfNat e.step.toNat) (f32OfNat e.target.toNat)

/-- The attack curve of R604: `c = t`, or `−(t−1)² + 1` when accented. -/
def attackCurve (acc : Bool) (t : F32) : F32 :=
  if acc then
    let u := f32Sub t F32.one
    f32Add (f32Neg (f32Mul u u)) F32.one
  else t

/-- The value `current` takes in this tick, by mode (R602, R604 to R607, R611). -/
def envCurrent (k : EnvCtx) (e : EnvBank) : F32 :=
  match e.mode with
  | .attack =>
    let c := attackCurve e.acc (rampTime e)
    f32Add (f32Mul e.start (f32Sub F32.one c)) (f32Mul e.peakt c)
  | .peak => e.peakt
  | .decay => if k.lin then f32Max (f32Sub e.current e.factor) k.p.envMin else f32Mul e.current e.factor
  | .noteEnd => f32Mul e.start (f32Sub F32.one (rampTime e))
  | .silence => k.p.envMin

/-- Step 2 of R602: the level of this tick; it differs from `current` in SILENCE alone. -/
def envLevel (k : EnvCtx) (e : EnvBank) : EnvBank :=
  let cur := envCurrent k e
  { e with current := cur, level := if e.mode = .silence then F32.zero else cur }

/-- `min(n + 1, 0xFFFFFFFF)`: the saturating counters of R840. -/
def satInc (n : Word) : Word := if n = 0xFFFFFFFF#32 then n else n + 1

/-- R609: the accented VCF decay above the floor is not ended by its counter. -/
def decayHeld (k : EnvCtx) (e : EnvBank) : Bool :=
  decide (k.bank = .vcf) && e.acc && !f32Le e.current k.p.envMin

/-- The counter-triggered transition of a tick whose step exceeds the target (R608, R609). -/
def envAdvance (tr : TR) (k : EnvCtx) (e : EnvBank) : EnvBank :=
  match e.mode with
  | .attack =>
    if e.acc then { e with mode := .peak, step := 0, target := stepsOf k.fs (widen e.tPeak) }
    else enterDecay tr k e
  | .peak => enterDecay tr k e
  | .decay => if decayHeld k e then e else enterNoteEnd k e
  | .noteEnd => { e with mode := .silence, current := k.p.envMin }
  | .silence => e

/-- Step 3 of R602: the step counter and what it triggers. -/
def envCount (tr : TR) (k : EnvCtx) (e : EnvBank) : EnvBank :=
  if e.mode = .silence then e
  else
    let e' := { e with step := satInc e.step }
    if e'.target.toNat < e'.step.toNat then envAdvance tr k e' else e'

/-- EnvTick(E) of R602. -/
def envTick (tr : TR) (k : EnvCtx) (e : EnvBank) : EnvBank := envCount tr k (envLevel k (envEdge k e))

/-- The context of a tick of bank `b`. -/
def State.envCtx (s : State) (b : Bank) : EnvCtx :=
  { p := s.params, bank := b, gate := gateOf s.envIn, accent := accentOf s.envIn
    gmode := cfgGmode s.cfg, lin := cfgLin s.cfg b, fs := s.fsHost, res0 := s.res0 }

/-- One tick of bank `b` of the CORE. -/
def tickEnv (tr : TR) (b : Bank) (s : State) : State := s.setEnv b (envTick tr (s.envCtx b) (s.env b))

/-- VCA (R620). -/
def execVca (s : State) : Host.Outcome State Fault Refusal := .next (tickEnv Config.tr .vca s)

/-- VCF (R621). -/
def execVcf (s : State) : Host.Outcome State Fault Refusal := .next (tickEnv Config.tr .vcf s)

end Sys2Proof.Machine
end

