-- ==== Sys2Proof/Machine/Nonlinear.lean ====
section
/-! DEFINITION. The TANH unit (spec/40_nonlinear.md R400 to R410). -/

namespace Sys2Proof.Machine

/-- The canonical quiet NaN of R402. -/
abbrev canonicalNaN : F32 := 0x7FC00000#32

/-- The numerator `d·(135135 + x²·(17325 + x²·(378 + x²)))` of R401. -/
def tanhNum (d x2 : F64) : F64 :=
  f64Mul d (f64Add 0x41007EF800000000#64 (f64Mul x2
    (f64Add 0x40D0EB4000000000#64 (f64Mul x2 (f64Add 0x4077A00000000000#64 x2)))))

/-- The denominator `135135 + x²·(62370 + x²·(3150 + x²·28))` of R401. -/
def tanhDen (x2 : F64) : F64 :=
  f64Add 0x41007EF800000000#64 (f64Mul x2
    (f64Add 0x40EE744000000000#64 (f64Mul x2
      (f64Add 0x40A89C0000000000#64 (f64Mul x2 0x403C000000000000#64)))))

/-- The rational form of R401 on the widened operand. -/
def tanhRational (d : F64) : F32 :=
  let x2 := f64Mul d d
  narrow32 (f64Div (tanhNum d x2) (tanhDen x2))

/-- `TANH(x)` of R401 and R402. -/
def tanhOf (p : Params) (x : F32) : F32 :=
  if isNaN32 x then canonicalNaN
  else if f64Lt (f64Abs (widen x)) p.tanhBound then tanhRational (widen x)
  else f32CopySignOne x

/-- `NL(v) = TANH(v / VT2)` of R404. -/
def nonlinear (p : Params) (v : F32) : F32 := tanhOf p (f32Div v p.vt2)

/-- TANH (R410): TANH_OUT ← TANH(TANH_IN). -/
def execTanh (s : State) : Host.Outcome State Fault Refusal :=
  .next { s with tanhOut := tanhOf s.params s.tanhIn }

end Sys2Proof.Machine
end

