-- ==== Sys2Proof/Machine/Oversampling.lean ====
section
/-! DEFINITION. The upsampler and the decimator (spec/41_oversampling.md R450 to R461), with the divergence recovery the
finite-check invokes (spec/42_ladder.md R530). Both work on one channel bank alone (R461). -/

namespace Sys2Proof.Machine

/-- A history of `n` places with `x` shifted in as the newest: places `n` and above are neither read nor shifted
(R452, R453). -/
def shiftIn (n : Nat) (x : F32) (h : List F32) : List F32 := x :: h.take (n - 1) ++ h.drop n

/-- `acc ← +0.0; for j = 0 to n−1: acc ← acc + (k j · x j)` in binary32 (R452, R453). -/
def sumTaps (n : Nat) (k x : Nat → F32) : F32 :=
  (List.range n).foldl (fun acc j => f32Add acc (f32Mul (k j) (x j))) F32.zero

/-- The polyphase output `Σ_j K[j·N + i] · UH[j]` of R452. -/
def upsampleTap (p : Params) (o : Osf) (uh : List F32) (i : Nat) : F32 :=
  sumTaps p.q (fun j => (kup p o).getD (j * o.factor + i) F32.zero) (fun j => uh.getD j F32.zero)

/-- The body of UPS c (R452). -/
def upsample (p : Params) (o : Osf) (ch : Channel) : Channel :=
  let uh := shiftIn p.q ch.ladIn ch.uh
  { ch with
    uh := uh
    osbuf := Vector.ofFn fun i : Fin 8 => if i.val < o.factor then upsampleTap p o uh i.val else ch.osbuf[i] }

/-- DH after the N oversampled samples are shifted in, the oldest first (R453). -/
def decimHistory (p : Params) (o : Osf) (ch : Channel) : List F32 :=
  (List.range o.factor).foldl (fun dh i => shiftIn (o.factor * p.q) (ch.os i) dh) ch.dh

/-- The decimated value `Σ_t K[t] · DH[t]` of R453. -/
def decimTap (p : Params) (o : Osf) (dh : List F32) : F32 :=
  sumTaps (o.factor * p.q) (fun t => (kdn p o).getD t F32.zero) (fun t => dh.getD t F32.zero)

/-- What a decimation leaves: the channel, and the non-finite value if the divergence recovery ran. -/
structure Decimated where
  ch  : Channel
  bad : Option F32
  deriving DecidableEq, Repr

/-- The body of DEC c (R453) with its finite-check; a non-finite value runs the recovery of R530 on the channel. -/
def decimate (p : Params) (o : Osf) (ch : Channel) : Decimated :=
  let dh := decimHistory p o ch
  let acc := decimTap p o dh
  if isFinite32 acc then { ch := { ch with dh := dh, ladOut := acc }, bad := none }
  else { ch := clearProcessing p ch, bad := some acc }

/-- Puts back channel `c` after a decimation; a recovery raises Event(LADDIV, channel c, data v) (R530). -/
def finishDecim (c : Nat) (d : Decimated) (s : State) : State :=
  match d.bad with
  | none => s.setChan c d.ch
  | some v => raiseEvent .laddiv c 0 v (s.setChan c d.ch)

/-- UPS c (R452). An illegal word raises ILLCMD and runs nothing (R300, R305). -/
def execUps (c : BitVec 4) (s : State) : Host.Outcome State Fault Refusal :=
  if s.legal (.ups c) then
    .next (s.setChan c.toNat (upsample s.params (osfOf s.cfg) (s.chan c.toNat)))
  else .next (illegalWord (encode (.ups c)) s)

/-- DEC c (R453). -/
def execDec (c : BitVec 4) (s : State) : Host.Outcome State Fault Refusal :=
  if s.legal (.dec c) then
    .next (finishDecim c.toNat (decimate s.params (osfOf s.cfg) (s.chan c.toNat)) s)
  else .next (illegalWord (encode (.dec c)) s)

end Sys2Proof.Machine
end

