-- ==== Sys2Proof/Machine/Ladder.lean ====
section
/-! DEFINITION. The ladder filter core: coefficients, one iteration, the full frame (spec/42_ladder.md R500 to R540). -/

namespace Sys2Proof.Machine

/-- The binary64 nearest to pi, and 2.0 in binary64 and binary32 (R502, R510). -/
abbrev pi64 : F64 := 0x400921FB54442D18#64
abbrev two64 : F64 := 0x4000000000000000#64
abbrev two32 : F32 := 0x40000000#32

/-- The coefficients (g, gA, Gres) of R502. -/
structure Coefs where
  g    : F32
  gA   : F32
  gres : F32
  deriving DecidableEq, Repr

/-- What the ladder reads besides its channel: the parameters, CFG, FS_HOST and the cutoff in Hz (R500). -/
structure LadderCtx where
  p   : Params
  cfg : Word
  fs  : F32
  fc  : F32
  deriving DecidableEq, Repr

/-- `w_c` of R502: `((2·PI)·widen(fc)) / (N·widen(FS_HOST))`. -/
def angularCutoff (k : LadderCtx) : F64 :=
  f64Div (f64Mul (f64Mul two64 pi64) (widen k.fc)) (f64Mul (f64OfNat (osfOf k.cfg).factor) (widen k.fs))

/-- The cubic `pg(w)` of R502, in Horner form. -/
def gPoly (p : Params) (w : F64) : F64 :=
  f64Add p.gc0 (f64Mul w (f64Add p.gc1 (f64Mul w (f64Add p.gc2 (f64Mul w p.gc3)))))

/-- `narrow32(widen(VT2) · pg(w))`. -/
def gCoef (p : Params) (w : F64) : F32 := narrow32 (f64Mul (widen p.vt2) (gPoly p w))

/-- The quartic Gres of R502, in Horner form. -/
def gresQuartic (q : GresCoeffs) (w : F64) : F32 :=
  narrow32 (f64Add q.c0 (f64Mul w (f64Add q.c1 (f64Mul w (f64Add q.c2 (f64Mul w (f64Add q.c3 (f64Mul w q.c4))))))))

/-- Gres of R502 and R503; `none` when CFG.TRES selects a quartic whose coefficients are not supplied (I7). -/
def gresOf (k : LadderCtx) : Option F32 :=
  if cfgTres k.cfg then k.p.gres.map (fun q => gresQuartic q (angularCutoff k))
  else some (narrow32 k.p.gresFixed)

/-- COEF(fc) of R502, with the first-pole-octave mode of R504. -/
def coefOf (k : LadderCtx) : Option Coefs :=
  (gresOf k).map fun gres =>
    let w := angularCutoff k
    let g := gCoef k.p w
    { g := g, gA := if cfgP1oct k.cfg then gCoef k.p (f64Mul two64 w) else g, gres := gres }

/-- The recurrence of R510 on the input `inp`, in model volts. -/
def ladderRecurrence (p : Params) (k : Coefs) (r inp : F32) (l : LadderState) : LadderState :=
  let fb := f32Mul (f32Mul (f32Mul two32 k.gres) r) (f32Add l.yd l.ydpp)
  let xin := f32Sub inp fb
  let ya := f32Add l.ya (f32Mul k.gA (f32Sub (nonlinear p xin) l.wa))
  let wa := nonlinear p ya
  let yb := f32Add l.yb (f32Mul k.g (f32Sub wa l.wb))
  let wb := nonlinear p yb
  let yc := f32Add l.yc (f32Mul k.g (f32Sub wb l.wc))
  let wc := nonlinear p yc
  let yd := f32Add l.yd (f32Mul k.g (f32Sub wc (nonlinear p l.yd)))
  { ya := ya, yb := yb, yc := yc, yd := yd, wa := wa, wb := wb, wc := wc, ydpp := l.yd }

/-- One iteration with its coefficients: input scaling, the recurrence, output scaling (R501, R510). -/
def ladderIterate (p : Params) (k : Coefs) (i : Nat) (ch : Channel) : Channel :=
  let l := ladderRecurrence p k ch.ladRes (f32Mul (ch.os i) p.inScale) ch.lstate
  { ch with lstate := l, osbuf := ch.osbuf.setIfInBounds i (f32Div l.yd p.inScale) }

/-- LadderStep(c, i, fc) of R510 on the bank of channel c. -/
def ladderStep (k : LadderCtx) (i : Nat) (ch : Channel) : Option Channel :=
  (coefOf k).map fun co => ladderIterate k.p co i ch

/-- `for i = 0 to n−1: LadderStep(c, i, fc)` of R520. -/
def ladderSteps (k : LadderCtx) : Nat → Channel → Option Channel
  | 0, ch => some ch
  | n + 1, ch => (ladderSteps k n ch).bind (ladderStep k n)

/-- LadderFrame(c, fc) of R520 on the bank of channel c. -/
def ladderFrame (k : LadderCtx) (ch : Channel) : Option Decimated :=
  let o := osfOf k.cfg
  (ladderSteps k o.factor (upsample k.p o ch)).map (decimate k.p o)

/-- The context of a ladder command at cutoff `fc`. -/
def State.ladderCtx (s : State) (fc : F32) : LadderCtx := { p := s.params, cfg := s.cfg, fs := s.fsHost, fc := fc }

/-- LSTEP c, i (R510). -/
def execLstep (c i : BitVec 4) (s : State) : Host.Outcome State Fault Refusal :=
  if s.legal (.lstep c i) then
    match ladderStep (s.ladderCtx (s.chan c.toNat).ladFc) i.toNat (s.chan c.toNat) with
    | some ch => .next (s.setChan c.toNat ch)
    | none => .refused .gresNotSupplied
  else .next (illegalWord (encode (.lstep c i)) s)

/-- FILT c (R520). -/
def execFilt (c : BitVec 4) (s : State) : Host.Outcome State Fault Refusal :=
  if s.legal (.filt c) then
    match ladderFrame (s.ladderCtx (s.chan c.toNat).ladFc) (s.chan c.toNat) with
    | some d => .next (finishDecim c.toNat d s)
    | none => .refused .gresNotSupplied
  else .next (illegalWord (encode (.filt c)) s)

end Sys2Proof.Machine
end

