-- ==== Sys2Proof/Machine/Bass.lean ====
section
/-! DEFINITION. The coupled Bass frame (spec/43_envelope.md R640). -/

namespace Sys2Proof.Machine

/-- The cutoff before its clamp: `CUT_BASE + (ENVMOD · ((VCF_SCALE · VCF.LEVEL) + VCF_BIAS))`, in binary32. -/
def bassCutoffRaw (b : BassRegs) (level : F32) : F32 :=
  f32Add b.cutBase (f32Mul b.envmod (f32Add (f32Mul b.vcfScale level) b.vcfBias))

/-- The NaN rule and the clamp of R640: `minf(maxf(fc, CUT_MIN), CUT_MAX)`. -/
def bassClamp (b : BassRegs) (fc : F32) : F32 :=
  f32Min (f32Max (if isNaN32 fc then b.cutMin else fc) b.cutMin) b.cutMax

/-- The cutoff of a frame whose VCF level is `level`. -/
def bassCutoff (b : BassRegs) (level : F32) : F32 := bassClamp b (bassCutoffRaw b level)

/-- The end of the frame: FC_EFF, the ladder frame's results, and `BASS_OUT ← LAD_OUT[0] · VCA.LEVEL`. -/
def bassFinish (fc : F32) (d : Decimated) (s : State) : State :=
  let t := finishDecim 0 d s
  { t with bass := { t.bass with fcEff := fc, bassOut := f32Mul d.ch.ladOut t.vca.level } }

/-- The whole frame (R640): both envelopes tick, then the cutoff is formed, then the ladder runs on channel 0. -/
def bassFrame (tr : TR) (s : State) : Option State :=
  let t := tickEnv tr .vcf (tickEnv tr .vca s)
  let fc := bassCutoff t.bass t.vcf.level
  (ladderFrame (t.ladderCtx fc) (t.chan 0)).map fun d => bassFinish fc d t

/-- BASS (R640). -/
def execBass (s : State) : Host.Outcome State Fault Refusal :=
  if s.legal .bass then
    match bassFrame Config.tr s with
    | some t => .next t
    | none => .refused .gresNotSupplied
  else .next (illegalWord (encode .bass) s)

end Sys2Proof.Machine
end

