-- ==== Sys2Proof/Machine/Control.lean ====
section
/-! DEFINITION. The control commands (spec/45_control.md R800, R810, R820). -/

namespace Sys2Proof.Machine

/-- NOP (R800): no state changes. -/
def execNop (s : State) : Host.Outcome State Fault Refusal := .next s

/-- RESET (R810): ResetCore() of R1000. -/
def execReset (s : State) : Host.Outcome State Fault Refusal := .next (resetCore s)

/-- CLRST (R820). -/
def execClrst (s : State) : Host.Outcome State Fault Refusal := .next (clearState s)

end Sys2Proof.Machine
end

