-- ==== Sys2Proof/Machine/Dynamics.lean ====
section
/-! DEFINITION. The dynamics unit (spec/44_dynamics.md R700 to R720). -/

namespace Sys2Proof.Machine

/-- `1.0 − TR.exp(((−P_DYN_K)·Ts) / t)` narrowed once, for a time register in milliseconds (R700): AT and RT. -/
def timeCoef (tr : TR) (p : Params) (fs ms : F32) : F32 :=
  let ts := f64Div 0x3FF0000000000000#64 (widen fs)
  let t := f64Div (widen ms) 0x408F400000000000#64
  narrow32 (f64Sub 0x3FF0000000000000#64 (trExp tr (f64Div (f64Mul (f64Neg p.dynK) ts) t)))

/-- HYST_N of R700. -/
def hystCount (p : Params) (fs : F32) : Nat := f64Floor (f64Mul p.hystT (widen fs))

/-- The detector input of R703: the mono sum, or DYN_SC when CFG.SC = 1. -/
def detectorInput (sc : Bool) (d : DynUnit) : F32 :=
  if sc then d.sc else f32Mul (f32Add d.inL d.inR) 0x3F000000#32

/-- The peak follower of R704. -/
def followPeak (at' rt ax peak : F32) : F32 :=
  if f32Lt peak ax then f32Add (f32Mul (f32Sub F32.one at') peak) (f32Mul at' ax)
  else f32Mul (f32Sub F32.one rt) peak

/-- The static curve of R705, in binary64, narrowed once: the control value f. -/
def staticCurve (tr : TR) (p : Params) (ltDb peak : F32) : F32 :=
  let dB := f64Mul 0x4034000000000000#64 (trLog10 tr (f64Div (widen peak) p.dynRef))
  let lt := widen ltDb
  let g := if f64Lt lt dB then f64Mul (f64Sub dB lt) 0xBFF0000000000000#64 else 0
  narrow32 (trPow10 tr (f64Div g 0x4034000000000000#64))

/-- The desired mode of R706. -/
def desiredMode (f gain : F32) (mode : DynMode) : DynMode :=
  if f32Lt f gain then .attack else if f32Lt gain f then .release else mode

/-- The hysteresis of R706: the mode and the counter after a tick. -/
def hysteresis (n : Nat) (desired mode : DynMode) (hcnt : Word) : DynMode × Word :=
  if desired = mode then (mode, 0)
  else if n < (satInc hcnt).toNat then (desired, 0)
  else (mode, satInc hcnt)

/-- The smoothing of R707: `((1.0 − k)·gain) + (k·f)`. -/
def smoothGain (k gain f : F32) : F32 := f32Add (f32Mul (f32Sub F32.one k) gain) (f32Mul k f)

/-- `popped ← none; while length(queue) > depth: popped ← pop the head` of R702 and R708. -/
def drainQueue (depth : Nat) : List Pair → Option Pair → Option Pair × List Pair
  | [], popped => (popped, [])
  | x :: xs, popped => if depth < xs.length + 1 then drainQueue depth xs (some x) else (popped, x :: xs)

/-- What a dynamics tick reads besides its unit. -/
structure DynCtx where
  p  : Params
  sc : Bool
  fs : F32
  deriving DecidableEq, Repr

/-- The tick up to its outputs (R703 to R708), with the outputs not yet checked. -/
def dynCompute (tr : TR) (k : DynCtx) (d : DynUnit) : DynUnit :=
  let at' := timeCoef tr k.p k.fs d.taMs
  let rt := timeCoef tr k.p k.fs d.trMs
  let peak := followPeak at' rt (f32Abs (detectorInput k.sc d)) d.peak
  let f := staticCurve tr k.p d.ltDb peak
  let mh := hysteresis (hystCount k.p k.fs) (desiredMode f d.gain d.mode) d.mode d.hcnt
  let gain := smoothGain (if mh.1 = .attack then at' else rt) d.gain f
  let pq := drainQueue d.depth.toNat (d.queue ++ [⟨d.inL, d.inR⟩]) none
  { d with
    peak := peak, ctl := f, mode := mh.1, hcnt := mh.2, gain := gain, queue := pq.2
    outL := match pq.1 with
      | none => F32.zero
      | some x => f32Mul x.l gain
    outR := match pq.1 with
      | none => F32.zero
      | some x => f32Mul x.r gain }

/-- The failure test of R720. -/
def dynFailed (d : DynUnit) : Bool := !isFinite32 d.outL || !isFinite32 d.outR

/-- The hard recovery of R720: peak, gain and control value to 1.0, outputs to +0.0; mode, counter and queue kept. -/
def dynRecover (d : DynUnit) : DynUnit :=
  { d with peak := F32.one, gain := F32.one, ctl := F32.one, outL := F32.zero, outR := F32.zero }

/-- One dynamics tick (R702) with its failure handling (R720). -/
def dynTick (tr : TR) (s : State) : State :=
  let d := dynCompute tr { p := s.params, sc := cfgSc s.cfg, fs := s.fsHost } s.dyn
  if dynFailed d then raiseEvent .dynrst 0 0 0 { s with dyn := dynRecover d }
  else { s with dyn := d }

/-- DYN (R702). -/
def execDyn (s : State) : Host.Outcome State Fault Refusal := .next (dynTick Config.tr s)

end Sys2Proof.Machine
end

