-- ==== Sys2Proof/Machine/Dispatch.lean ====
section
/-! DEFINITION. The execution of a command: one arm for each constructor of Instr (spec/30_encoding.md R304). -/

namespace Sys2Proof.Machine

def exec (i : Instr) (s : State) : Host.Outcome State Fault Refusal :=
  match i with
  | .nop => Sys2Proof.Machine.execNop s
  | .reset => Sys2Proof.Machine.execReset s
  | .clrst => Sys2Proof.Machine.execClrst s
  | .tanh => Sys2Proof.Machine.execTanh s
  | .ups c => Sys2Proof.Machine.execUps c s
  | .lstep c i' => Sys2Proof.Machine.execLstep c i' s
  | .dec c => Sys2Proof.Machine.execDec c s
  | .filt c => Sys2Proof.Machine.execFilt c s
  | .vca => Sys2Proof.Machine.execVca s
  | .vcf => Sys2Proof.Machine.execVcf s
  | .bass => Sys2Proof.Machine.execBass s
  | .dyn => Sys2Proof.Machine.execDyn s

end Sys2Proof.Machine
end

