-- ==== Sys2Proof/Machine/Bus.lean ====
section
/-! DEFINITION. Serving the inputs of the CORE one at a time (spec/20_memory.md R200 to R210; spec/30_encoding.md R300;
spec/70_reset_and_hazards.md R1001). -/

namespace Sys2Proof.Machine

/-- A write of `w` to CMD (R300): the command runs to completion, or an illegal word raises ILLCMD. -/
def command (w : Word) (s : State) : Host.Outcome State Fault Refusal :=
  match decode w with
  | .ok i => exec i s
  | .error _ => .next (illegalWord w s)

/-- A legal write to register `r` (R204). -/
def busWrite (r : Reg) (v : Word) (s : State) : Host.Outcome State Fault Refusal :=
  match r with
  | .cmd => command v s
  | r => .next (writeReg v s r)

/-- One bus access while RST_N is high; width and alignment are checked first (R202, R903). -/
def busAccess (a : Access) (s : State) : Host.Outcome State Fault Refusal :=
  match a with
  | .read w addr => .next (if accessLegal w addr then busRead addr s else busErrorRead addr s)
  | .write w addr v =>
    if accessLegal w addr then busWrite (regAt (offsetOf addr)) v s else .next (busErrorWrite addr v s)

/-- One input: a bus access, or an edge of RST_N (R1001). While RST_N is low the CORE holds the reset state. -/
def serve (x : Input) (s : State) : Host.Outcome State Fault Refusal :=
  match x with
  | .access a => if s.rstN then busAccess a s else .next (heldAccess a s)
  | .rstLow => .next { resetCore s with rstN := false }
  | .rstHigh => .next { s with rstN := true }

/-- Serves the input that arrived first; with none waiting the CORE is idle and keeps all state (R944, R1002). -/
def serveNext (s : State) : Host.Outcome State Fault Refusal :=
  match s.inputs with
  | [] => .next s
  | x :: rest => serve x { s with inputs := rest }

/-- A 32-bit write of a command word to CMD. -/
def commandInput (w : Word) : Input := .access (.write .b32 0x000 w)

end Sys2Proof.Machine
end

