-- ==== Sys2Proof/Machine/Step.lean ====
section
/-! DEFINITION. One step: the CORE serves one input of the outside world (spec/20_memory.md R210). The CORE fetches no
instructions (R103, R213); a command comes to it as a write to CMD. -/

namespace Sys2Proof.Machine

def step (s : State) : Host.Outcome State Fault Refusal := serveNext s

/-- The state with the command word `w` as the input served next: a 32-bit write to CMD, with RST_N high so that the
access is accepted (R300, R1001). DESIGN CHOICE (log entry 8). -/
def State.withFetchWord (s : State) (nbits w : Nat) : State :=
  { s with rstN := true, inputs := commandInput (BitVec.ofNat 32 (w % 2 ^ nbits)) :: s.inputs }

end Sys2Proof.Machine
end

