-- ==== Sys2Proof/Safety.lean ====
section
/-! DEFINITION. The terms the claims use: the invariant of the CORE, what a frame leaves alone, the real value of a
floating-point pattern, and runs of commands. -/

namespace Sys2Proof.Machine

/-! ### The invariant

What the rules say holds of every state from reset on. -/

/-- A channel bank: UH has P_Q places, DH 8·P_Q (R123), and LAD_OUT is finite (R453, R530). -/
def invChannel (p : Params) (ch : Channel) : Bool :=
  decide (ch.uh.length = p.q) && decide (ch.dh.length = 8 * p.q) && isFinite32 ch.ladOut

/-- P_NCH is 1 to 16 (R10), and every bank is well formed. -/
def invChannels (s : State) : Bool :=
  decide (1 ≤ s.nch) && decide (s.nch ≤ 16) && s.chans.all (invChannel s.params)

/-- STATUS and IRQ_EN hold no reserved bit and no DIV bit of an absent channel (R110, R113). -/
def invStatus (s : State) : Bool :=
  decide (s.status &&& ~~~statusMask s.nch = 0) && decide (s.irqEn &&& ~~~statusMask s.nch = 0)

/-- EVT_INFO[31:24] is 0 and the event code is at most 5 (R111, R901). -/
def invEvent (s : State) : Bool :=
  decide (s.evtInfo.toNat < 2 ^ 24) && decide (s.evtInfo.toNat % 2 ^ 8 ≤ 5)

/-- CFG[31:8] reads 0 and CFG.OSF is never 0 (R114). -/
def invCfg (s : State) : Bool := decide (s.cfg.toNat < 2 ^ 8) && decide (s.cfg.toNat % 4 ≠ 0)

/-- FS_HOST is a number from P_FS_MIN to P_FS_MAX (R115, R502). -/
def invFs (s : State) : Bool := f32Le Config.fsMin s.fsHost && f32Le s.fsHost Config.fsMax

/-- ENV_IN[31:2] reads 0 (R133). -/
def invEnvIn (s : State) : Bool := decide (s.envIn.toNat < 4)

/-- An envelope bank: PEAK_LVL is legal (R130), TARGET is 1 to 2^24 (R601, R840(b)), STEP does not exceed TARGET in
ATTACK, PEAK and NOTE_END (R608, R840(h)), and CURRENT is the floor in SILENCE (R611). -/
def invEnv (p : Params) (e : EnvBank) : Bool :=
  peakLvlLegal p.envMin e.peakLvl && decide (1 ≤ e.target.toNat) && decide (e.target.toNat ≤ 2 ^ 24) &&
  match e.mode with
  | .attack => decide (e.step.toNat ≤ e.target.toNat)
  | .peak => decide (e.step.toNat ≤ e.target.toNat)
  | .noteEnd => decide (e.step.toNat ≤ e.target.toNat)
  | .decay => true
  | .silence => decide (e.current = p.envMin)

/-- The dynamics unit: the WARL registers are legal (R150), the queue fits its capacity (R151, R840(e)) and both outputs
are finite (R720, R721(c)). -/
def invDyn (p : Params) (d : DynUnit) : Bool :=
  dynTimeLegal d.taMs && dynTimeLegal d.trMs && decide (d.depth.toNat ≤ p.laMax.toNat) &&
  decide (d.queue.length ≤ p.laMax.toNat) && isFinite32 d.outL && isFinite32 d.outR

/-- While RST_N is low the CORE holds the reset state (R1001). -/
def invHeld (s : State) : Bool := s.rstN || decide (resetCore s = s)

/-- The invariant of the CORE. -/
def State.inv (s : State) : Bool :=
  paramsOk s.params && invChannels s && invStatus s && invEvent s && invCfg s && invFs s && invEnvIn s &&
  invEnv s.params s.vca && invEnv s.params s.vcf && invDyn s.params s.dyn && invHeld s

/-- A step is safe when it gives a next state. -/
def Safe (s : State) : Prop := ∃ t, step s = .next t

/-! ### Frames -/

/-- The host's side of the bus, the pin RST_N and the parameters are the same. -/
def SameHost (s t : State) : Prop :=
  t.params = s.params ∧ t.inputs = s.inputs ∧ t.rdata = s.rdata ∧ t.rstN = s.rstN ∧ t.nch = s.nch

/-- The internal state that no register shows (R100(b)): the oversampler histories of every channel and the queue. -/
def SameInternal (s t : State) : Prop :=
  (∀ c, (t.chan c).uh = (s.chan c).uh ∧ (t.chan c).dh = (s.chan c).dh) ∧ t.dyn.queue = s.dyn.queue

/-- Every register that `written` does not name reads as before. -/
def SameRegs (s t : State) (written : Reg → Bool) : Prop := ∀ r, written r = false → readReg t r = readReg s r

/-- The event registers (R901). -/
def isEventReg : Reg → Bool
  | .status => true
  | .evtInfo => true
  | .evtData => true
  | _ => false

/-- The event `code` on channel `ch` with offset `off` and data `d` is recorded over the STATUS of `s` (R901). -/
def Recorded (s t : State) (code : EventCode) (ch off : Nat) (d : Word) : Prop :=
  t.status = s.status ||| statusBit code ch ∧ t.evtInfo = eventInfo code ch off ∧ t.evtData = d

/-- No event is recorded: STATUS, EVT_INFO and EVT_DATA are as before. -/
def NoEvent (s t : State) : Prop := t.status = s.status ∧ t.evtInfo = s.evtInfo ∧ t.evtData = s.evtData

/-! ### The real value of a pattern -/

/-- The rational number a datum stands for; 0 for an infinity or a NaN. -/
def Fp.val : Fp → ℚ
  | .fin s m e => (if s then -1 else 1) * (m : ℚ) * (2 : ℚ) ^ e
  | .inf _ => 0
  | .nan => 0

/-- The value of a finite binary32 pattern. -/
def val32 (x : F32) : ℚ := (unpack32 x).val

/-- The value of a finite binary64 pattern. -/
def val64 (x : F64) : ℚ := (unpack64 x).val

/-- A finite binary64 pattern. -/
def isFinite64 (x : F64) : Bool := decide (mag64 x < 0x7FF0000000000000)

/-- A NaN of any kind. -/
def IsNaN (x : F32) : Prop := isNaN32 x = true

/-- `y` is a nearest binary32 value to the rational `r`, with the even significand when two are equally near (R13(a)). -/
def NearestEven32 (r : ℚ) (y : F32) : Prop :=
  isFinite32 y = true ∧
  ∀ z : F32, isFinite32 z = true →
    |val32 y - r| ≤ |val32 z - r| ∧ (|val32 y - r| = |val32 z - r| → val32 z ≠ val32 y → y.toNat % 2 = 0)

/-- The rational above which R13(f) rounds to infinity: the largest finite binary32 and half its last place. -/
def overflowBound32 : ℚ := (2 ^ 24 - 1 / 2) * 2 ^ 104

/-- The result `y` of a binary32 operation whose exact finite result is `r` (R13(a), (f)): the nearest value, or the
infinity of the sign of `r` from the overflow bound on. -/
def Rounds32 (r : ℚ) (y : F32) : Prop :=
  (|r| < overflowBound32 → NearestEven32 r y) ∧
  (overflowBound32 ≤ r → y = 0x7F800000#32) ∧
  (r ≤ -overflowBound32 → y = 0xFF800000#32)

/-- `NearestEven32` in binary64 (R13(b)). -/
def NearestEven64 (r : ℚ) (y : F64) : Prop :=
  isFinite64 y = true ∧
  ∀ z : F64, isFinite64 z = true →
    |val64 y - r| ≤ |val64 z - r| ∧ (|val64 y - r| = |val64 z - r| → val64 z ≠ val64 y → y.toNat % 2 = 0)

/-- The largest finite binary64 and half its last place. -/
def overflowBound64 : ℚ := (2 ^ 53 - 1 / 2) * 2 ^ 971

/-- `Rounds32` in binary64 (R13(b), (f)). -/
def Rounds64 (r : ℚ) (y : F64) : Prop :=
  (|r| < overflowBound64 → NearestEven64 r y) ∧
  (overflowBound64 ≤ r → y = 0x7FF0000000000000#64) ∧
  (r ≤ -overflowBound64 → y = 0xFFF0000000000000#64)

/-- A NaN is quiet when the top fraction bit is set (R14). -/
def QuietIfNaN32 (y : F32) : Prop := isNaN32 y = true → y.getLsbD 22 = true
def QuietIfNaN64 (y : F64) : Prop := isNaN64 y = true → y.getLsbD 51 = true

/-! ### Special operands of IEEE 754 (R13)

What correct rounding of a real result leaves open: the sign of a zero and the results at infinities and zeros. -/

/-- One format with its four operations; `inf` is the pattern of +∞. -/
structure FpFormat (w : Nat) where
  val    : BitVec w → ℚ
  finite : BitVec w → Bool
  nan    : BitVec w → Bool
  inf    : BitVec w
  add    : BitVec w → BitVec w → BitVec w
  sub    : BitVec w → BitVec w → BitVec w
  mul    : BitVec w → BitVec w → BitVec w
  div    : BitVec w → BitVec w → BitVec w

def binary32 : FpFormat 32 := ⟨val32, isFinite32, isNaN32, 0x7F800000#32, f32Add, f32Sub, f32Mul, f32Div⟩
def binary64 : FpFormat 64 := ⟨val64, isFinite64, isNaN64, 0x7FF0000000000000#64, f64Add, f64Sub, f64Mul, f64Div⟩

/-- The pattern `p` with the sign bit set when `neg`; `p` has it clear. -/
def withSign {w : Nat} (neg : Bool) (p : BitVec w) : BitVec w := if neg then p ||| BitVec.twoPow w (w - 1) else p

/-- `x` is `p` with either sign: an infinity for `p = inf`, a zero for `p = 0`. -/
def IsSigned {w : Nat} (p x : BitVec w) : Prop := x = withSign x.msb p

/-- Sums and differences of operands that are no NaN: an infinity absorbs a finite operand, `∞ − ∞` is a NaN, and an exact
zero is −0 only as the sum of two negative zeros. -/
def SpecialSums {w : Nat} (f : FpFormat w) : Prop :=
  ∀ a b, f.nan a = false → f.nan b = false →
    (IsSigned f.inf a → ¬ IsSigned f.inf b → f.add a b = a ∧ f.sub a b = a) ∧
    (¬ IsSigned f.inf a → IsSigned f.inf b → f.add a b = b ∧ f.sub a b = withSign (!b.msb) f.inf) ∧
    (IsSigned f.inf a → a = b → f.add a b = a ∧ f.nan (f.sub a b) = true) ∧
    (IsSigned f.inf a → IsSigned f.inf b → a ≠ b → f.nan (f.add a b) = true ∧ f.sub a b = a) ∧
    (f.finite a = true → f.finite b = true →
      (f.val a + f.val b = 0 → f.add a b = withSign (a.msb && b.msb) 0) ∧
      (f.val a - f.val b = 0 → f.sub a b = withSign (a.msb && !b.msb) 0))

/-- Products of operands that are no NaN: the sign is that of the operands, `∞ · 0` is a NaN, and any other product with an
infinity is an infinity. -/
def SpecialProducts {w : Nat} (f : FpFormat w) : Prop :=
  ∀ a b, f.nan a = false → f.nan b = false →
    (f.nan (f.mul a b) = false → (f.mul a b).msb = (a.msb != b.msb)) ∧
    ((IsSigned f.inf a ∧ IsSigned 0 b) ∨ (IsSigned 0 a ∧ IsSigned f.inf b) → f.nan (f.mul a b) = true) ∧
    ((IsSigned f.inf a ∧ ¬ IsSigned 0 b) ∨ (¬ IsSigned 0 a ∧ IsSigned f.inf b) →
      f.mul a b = withSign (a.msb != b.msb) f.inf)

/-- Quotients of operands that are no NaN: the sign is that of the operands, `∞ / ∞` and `0 / 0` are NaNs, an infinity over a
finite value and a nonzero finite value over a zero are infinities, and a finite value over an infinity is a zero. -/
def SpecialQuotients {w : Nat} (f : FpFormat w) : Prop :=
  ∀ a b, f.nan a = false → f.nan b = false →
    (f.nan (f.div a b) = false → (f.div a b).msb = (a.msb != b.msb)) ∧
    ((IsSigned f.inf a ∧ IsSigned f.inf b) ∨ (IsSigned 0 a ∧ IsSigned 0 b) → f.nan (f.div a b) = true) ∧
    ((IsSigned f.inf a ∧ ¬ IsSigned f.inf b) ∨ (f.finite a = true ∧ ¬ IsSigned 0 a ∧ IsSigned 0 b) →
      f.div a b = withSign (a.msb != b.msb) f.inf) ∧
    (f.finite a = true ∧ IsSigned f.inf b → f.div a b = withSign (a.msb != b.msb) 0)

/-! ### Comparisons (R21) -/

/-- `lt` is the order of the real values with −∞ below and +∞ above them, false on a NaN. -/
def IsLessThan {w : Nat} (f : FpFormat w) (lt : BitVec w → BitVec w → Bool) : Prop :=
  ∀ a b, (f.nan a = true ∨ f.nan b = true → lt a b = false) ∧
    (f.finite a = true → f.finite b = true → (lt a b = true ↔ f.val a < f.val b)) ∧
    (lt a f.inf = true ↔ f.nan a = false ∧ a ≠ f.inf) ∧ lt f.inf a = false ∧
    (lt (withSign true f.inf) a = true ↔ f.nan a = false ∧ a ≠ withSign true f.inf) ∧ lt a (withSign true f.inf) = false

/-- `le` is `a < b` or the same real value, or the same infinity; false on a NaN. -/
def IsAtMost {w : Nat} (f : FpFormat w) (le : BitVec w → BitVec w → Bool) : Prop :=
  ∀ a b, (f.nan a = true ∨ f.nan b = true → le a b = false) ∧
    (f.finite a = true → f.finite b = true → (le a b = true ↔ f.val a ≤ f.val b)) ∧
    (le a f.inf = true ↔ f.nan a = false) ∧ (le f.inf a = true ↔ a = f.inf) ∧
    (le (withSign true f.inf) a = true ↔ f.nan a = false) ∧ (le a (withSign true f.inf) = true ↔ a = withSign true f.inf)

/-! ### The factor of CFG.OSF (R11, R114, R452, R453) -/

/-- The factor N, the upsampler kernel P_KUP_N and the decimator kernel P_KDN_N that the codes 1, 2 and 3 of CFG.OSF select. -/
def OsfSelects (s : State) (n : Nat) (ku kd : List F32) : Prop :=
  (s.cfg.toNat % 4 = 1 ∧ n = 2 ∧ ku = s.params.kup2 ∧ kd = s.params.kdn2) ∨
  (s.cfg.toNat % 4 = 2 ∧ n = 4 ∧ ku = s.params.kup4 ∧ kd = s.params.kdn4) ∨
  (s.cfg.toNat % 4 = 3 ∧ n = 8 ∧ ku = s.params.kup8 ∧ kd = s.params.kdn8)

/-! ### Legal command words (R305) -/

/-- The opcodes of R304, those without operands, and those with a channel alone. -/
def allOpcodes : List Nat := [0x00, 0x01, 0x02, 0x10, 0x20, 0x21, 0x22, 0x23, 0x30, 0x31, 0x32, 0x40]
def plainOpcodes : List Nat := [0x00, 0x01, 0x02, 0x10, 0x30, 0x31, 0x32, 0x40]
def channelOpcodes : List Nat := [0x20, 0x22, 0x23]

/-- The six conditions of R305 on a word, for P_NCH channels and factor N. -/
def LegalWord (w : Word) (nch n : Nat) : Prop :=
  w.field 31 24 ∈ allOpcodes ∧
  w.field 15 0 = 0 ∧
  (w.field 31 24 ∈ plainOpcodes → w.field 23 20 = 0 ∧ w.field 19 16 = 0) ∧
  (w.field 31 24 ∈ channelOpcodes → w.field 23 20 < nch ∧ w.field 19 16 = 0) ∧
  (w.field 31 24 = 0x21 → w.field 23 20 < nch ∧ w.field 19 16 < n) ∧
  (w.field 31 24 = 0x32 → 0 < nch)

/-! ### The register map by name (R101) -/

/-- The offset of an envelope register from 0x200 + B. -/
def envRegOffset : EnvReg → Nat
  | .tAtt => 0x00
  | .tAccAtt => 0x04
  | .tPeak => 0x08
  | .tDec => 0x0C
  | .tAccDec => 0x10
  | .tEnd => 0x14
  | .peakLvl => 0x18
  | .level => 0x1C
  | .current => 0x20
  | .estat => 0x24
  | .step => 0x28
  | .target => 0x2C
  | .factor => 0x30
  | .start => 0x34
  | .peakt => 0x38

/-- The bank base B of R101. -/
def bankBase : Bank → Nat
  | .vca => 0x000
  | .vcf => 0x040

/-- The offset column of R101; `none` for `reserved` and for indices the map has no place for (c above 15, k or i above 7). -/
def regOffset : Reg → Option Nat
  | .cmd => some 0x000
  | .status => some 0x004
  | .irqEn => some 0x008
  | .evtInfo => some 0x00C
  | .evtData => some 0x010
  | .id => some 0x014
  | .cfg => some 0x018
  | .fsHost => some 0x01C
  | .tanhIn => some 0x020
  | .tanhOut => some 0x024
  | .ladIn c => if c < 16 then some (0x100 + 0x10 * c) else none
  | .ladFc c => if c < 16 then some (0x104 + 0x10 * c) else none
  | .ladRes c => if c < 16 then some (0x108 + 0x10 * c) else none
  | .ladOut c => if c < 16 then some (0x10C + 0x10 * c) else none
  | .env b r => some (0x200 + bankBase b + envRegOffset r)
  | .envIn => some 0x280
  | .cutBase => some 0x290
  | .envmod => some 0x294
  | .vcfScale => some 0x298
  | .vcfBias => some 0x29C
  | .cutMin => some 0x2A0
  | .cutMax => some 0x2A4
  | .fcEff => some 0x2A8
  | .bassOut => some 0x2AC
  | .dynInL => some 0x300
  | .dynInR => some 0x304
  | .dynSc => some 0x308
  | .dynTaMs => some 0x30C
  | .dynTrMs => some 0x310
  | .dynLtDb => some 0x314
  | .dynDepth => some 0x318
  | .dynOutL => some 0x31C
  | .dynOutR => some 0x320
  | .dynPeak => some 0x324
  | .dynGain => some 0x328
  | .dynCtl => some 0x32C
  | .dynStat => some 0x330
  | .dynHcnt => some 0x334
  | .dynOcc => some 0x338
  | .lstate c k => if c < 16 ∧ k < 8 then some (0x800 + 0x20 * c + 4 * k) else none
  | .osbuf c i => if c < 16 ∧ i < 8 then some (0xA00 + 0x20 * c + 4 * i) else none
  | .reserved => none

/-! ### Registers by kind -/

/-- The RW registers whose write stores the value as given (R160(f)), of a CORE with `nch` channels. -/
def isPlainReg (nch : Nat) : Reg → Bool
  | .tanhIn => true
  | .ladIn c => decide (c < nch)
  | .ladFc c => decide (c < nch)
  | .ladRes c => decide (c < nch)
  | .env _ .tAtt => true
  | .env _ .tAccAtt => true
  | .env _ .tPeak => true
  | .env _ .tDec => true
  | .env _ .tAccDec => true
  | .env _ .tEnd => true
  | .cutBase => true
  | .envmod => true
  | .vcfScale => true
  | .vcfBias => true
  | .cutMin => true
  | .cutMax => true
  | .dynInL => true
  | .dynInR => true
  | .dynSc => true
  | .dynLtDb => true
  | _ => false

/-- The registers a write changes nothing of: RO (R101), reserved, and those of an absent channel (R160(a) to (c)). -/
def isIgnoredReg (nch : Nat) : Reg → Bool
  | .evtInfo => true
  | .evtData => true
  | .id => true
  | .tanhOut => true
  | .ladIn c => decide (nch ≤ c)
  | .ladFc c => decide (nch ≤ c)
  | .ladRes c => decide (nch ≤ c)
  | .ladOut _ => true
  | .env _ .level => true
  | .env _ .current => true
  | .env _ .estat => true
  | .env _ .step => true
  | .env _ .target => true
  | .env _ .factor => true
  | .env _ .start => true
  | .env _ .peakt => true
  | .fcEff => true
  | .bassOut => true
  | .dynOutL => true
  | .dynOutR => true
  | .dynPeak => true
  | .dynGain => true
  | .dynCtl => true
  | .dynStat => true
  | .dynHcnt => true
  | .dynOcc => true
  | .lstate _ _ => true
  | .osbuf _ _ => true
  | .reserved => true
  | _ => false

/-- The registers that read 0: CMD, reserved offsets, and those of an absent channel (R160(a), (b), (d)). -/
def isZeroReg (nch : Nat) : Reg → Bool
  | .cmd => true
  | .reserved => true
  | .ladIn c => decide (nch ≤ c)
  | .ladFc c => decide (nch ≤ c)
  | .ladRes c => decide (nch ≤ c)
  | .ladOut c => decide (nch ≤ c)
  | .lstate c _ => decide (nch ≤ c)
  | .osbuf c _ => decide (nch ≤ c)
  | _ => false

/-- The state registers of an envelope bank (R131). -/
def isEnvState : EnvReg → Bool
  | .level => true
  | .current => true
  | .estat => true
  | .step => true
  | .target => true
  | .factor => true
  | .start => true
  | .peakt => true
  | _ => false

/-- The result registers a command writes besides the event registers, from the "Operands" line of its rule. -/
def writtenBy : Instr → Reg → Bool
  | .tanh, .tanhOut => true
  | .ups c, .osbuf c' _ => c.toNat == c'
  | .lstep c _, .lstate c' _ => c.toNat == c'
  | .lstep c i, .osbuf c' j => c.toNat == c' && i.toNat == j
  | .dec c, .ladOut c' => c.toNat == c'
  | .dec c, .lstate c' _ => c.toNat == c'
  | .dec c, .osbuf c' _ => c.toNat == c'
  | .filt c, .ladOut c' => c.toNat == c'
  | .filt c, .lstate c' _ => c.toNat == c'
  | .filt c, .osbuf c' _ => c.toNat == c'
  | .vca, .env .vca r => isEnvState r
  | .vcf, .env .vcf r => isEnvState r
  | .bass, .env _ r => isEnvState r
  | .bass, .fcEff => true
  | .bass, .bassOut => true
  | .bass, .ladOut c' => c' == 0
  | .bass, .lstate c' _ => c' == 0
  | .bass, .osbuf c' _ => c' == 0
  | .dyn, .dynOutL => true
  | .dyn, .dynOutR => true
  | .dyn, .dynPeak => true
  | .dyn, .dynGain => true
  | .dyn, .dynCtl => true
  | .dyn, .dynStat => true
  | .dyn, .dynHcnt => true
  | .dyn, .dynOcc => true
  | _, _ => false

/-- The commands that can raise an event, LADDIV or DYNRST (R901). -/
def mayRaise : Instr → Bool
  | .dec _ => true
  | .filt _ => true
  | .bass => true
  | .dyn => true
  | _ => false

/-- The reset value of an envelope register (R130, R131, R132, R140). -/
def resetEnvReading (p : Params) (r : EnvResetValues) : EnvReg → Word
  | .tAtt => r.tAtt
  | .tAccAtt => r.tAccAtt
  | .tPeak => r.tPeak
  | .tDec => r.tDec
  | .tAccDec => r.tAccDec
  | .tEnd => r.tEnd
  | .peakLvl => r.peakLvl
  | .level => 0
  | .current => p.envMin
  | .estat => 0x00000004#32
  | .step => 0
  | .target => 1
  | .factor => 0
  | .start => 0
  | .peakt => 0x3F800000#32

/-- What each register reads after ResetCore (R1000, R140). -/
def resetReading (p : Params) : Reg → Word
  | .id => 0x41544E07#32
  | .cfg => BitVec.ofNat 32 (0x10 + p.osfDefault.toNat)
  | .fsHost => 0x472C4400#32
  | .env .vca r => resetEnvReading p p.rv.vca r
  | .env .vcf r => resetEnvReading p p.rv.vcf r
  | .cutBase => p.rv.cutBase
  | .envmod => p.rv.envmod
  | .vcfScale => p.rv.vcfScale
  | .vcfBias => p.rv.vcfBias
  | .cutMin => p.rv.cutMin
  | .cutMax => p.rv.cutMax
  | .dynTaMs => p.rv.dynTaMs
  | .dynTrMs => p.rv.dynTrMs
  | .dynLtDb => p.rv.dynLtDb
  | .dynDepth => p.rv.dynDepth
  | .dynGain => 0x3F800000#32
  | .dynCtl => 0x3F800000#32
  | _ => 0

/-- The state registers CLRST gives their reset values (R820). -/
def clearedByClrst : Reg → Bool
  | .tanhOut => true
  | .ladOut _ => true
  | .lstate _ _ => true
  | .osbuf _ _ => true
  | .env _ r => isEnvState r
  | .fcEff => true
  | .bassOut => true
  | .dynOutL => true
  | .dynOutR => true
  | .dynPeak => true
  | .dynGain => true
  | .dynCtl => true
  | .dynStat => true
  | .dynHcnt => true
  | .dynOcc => true
  | _ => false

/-- UH and DH of every channel are +0.0, of the lengths R123 gives, and the queue is empty. -/
def InternalCleared (t : State) : Prop :=
  (∀ c, (t.chan c).uh = List.replicate t.params.q F32.zero ∧ (t.chan c).dh = List.replicate (8 * t.params.q) F32.zero) ∧
  t.dyn.queue = []

/-- The channels a command works on: the one it names, and channel 0 for BASS (R125, R640). -/
def touchesChannel : Instr → Nat → Bool
  | .ups c, c' => c.toNat == c'
  | .lstep c _, c' => c.toNat == c'
  | .dec c, c' => c.toNat == c'
  | .filt c, c' => c.toNat == c'
  | .bass, c' => c' == 0
  | _, _ => false

/-! ### Single accesses -/

/-- The state with the bus access `a` as the input served next. -/
def State.withAccess (s : State) (a : Access) : State := { s with inputs := .access a :: s.inputs }

/-- The access writes the command word of `i` to CMD. -/
def IsCommand (a : Access) (i : Instr) : Prop := ∃ addr, offsetOf addr = 0x000 ∧ a = .write .b32 addr (encode i)

/-- No word with opcode `opc` that R305 does not admit runs: writing it to CMD records ILLCMD and changes nothing else. -/
def IllegalFormsRaise (s : State) (opc : Nat) : Prop :=
  ∀ w : Word, w.field 31 24 = opc → ¬ LegalWord w s.nch s.factor → s.rstN = true →
    step (s.withAccess (.write .b32 0x000 w)) =
      .next { s with status := s.status ||| 0x00000001#32, evtInfo := 0x00000001#32, evtData := w }

/-- A write of `v` to the WARL register `r` at `off` stores `x`; CFGADJ is recorded exactly when `adjusted`, and nothing
else changes (R204, R901). -/
def WarlWrite (s : State) (off : Nat) (r : Reg) (v x : Word) (adjusted : Bool) : Prop :=
  ∃ t, step (s.withAccess (.write .b32 off v)) = .next t ∧ readReg t r = x ∧
    (∀ r', r' ≠ r → isEventReg r' = false → readReg t r' = readReg s r') ∧
    (if adjusted then Recorded s t .cfgadj 0 off v else NoEvent s t) ∧
    SameHost s t ∧ SameInternal s t

/-! ### The transition table of R610 -/

/-- The next mode: `rise` and `fall` are the edges, `done` is step > target after the increment, `floor` is
current ≤ MIN after the update of the tick. -/
def nextMode (bank : Bank) (acc rise fall gmode done floor : Bool) : EnvMode → EnvMode
  | .silence => if rise then .attack else .silence
  | .attack =>
    if rise then .attack else if fall && gmode then .noteEnd
    else if done then (if acc then .peak else .decay) else .attack
  | .peak => if rise then .attack else if fall && gmode then .noteEnd else if done then .decay else .peak
  | .decay =>
    if rise then .attack else if fall && gmode then .noteEnd
    else if done then (if decide (bank = .vcf) && acc && !floor then .decay else .noteEnd) else .decay
  | .noteEnd => if rise then .attack else if done then .silence else .noteEnd

/-- Ticks of one bank, one context after the other. -/
def envRun (tr : TR) (ks : List EnvCtx) (e : EnvBank) : EnvBank := ks.foldl (fun e k => envTick tr k e) e

/-! ### Runs -/

/-- The commands of a list one after the other, with no other access between them. -/
def runCommands : List Instr → State → Host.Outcome State Fault Refusal
  | [], s => .next s
  | i :: is, s =>
    match exec i s with
    | .next t => runCommands is t
    | .fault r => .fault r
    | .refused r => .refused r

/-- The pseudo-instruction `filtx c` at factor `n` (R311). -/
def filtx (c : BitVec 4) (n : Nat) : List Instr :=
  .ups c :: (List.range n).map (fun i => .lstep c (BitVec.ofNat 4 i)) ++ [.dec c]

/-- DYN_IN_L and DYN_IN_R written with a pair. -/
def feed (x : Pair) (s : State) : State := { s with dyn := { s.dyn with inL := x.l, inR := x.r } }

/-- One DYN for each pair, with the pair written to the inputs before it. -/
def runFed : List Pair → State → Host.Outcome State Fault Refusal
  | [], s => .next s
  | x :: xs, s =>
    match exec .dyn (feed x s) with
    | .next t => runFed xs t
    | .fault r => .fault r
    | .refused r => .refused r

/-- The coefficients of the ladder can be formed: CFG.TRES = 0, or P_GRES_C0..C4 are supplied (I7). -/
def State.gresReady (s : State) : Bool := !cfgTres s.cfg || s.params.gres.isSome

/-- Some value of the ladder state is a NaN. -/
def LadderState.hasNaN (l : LadderState) : Bool :=
  isNaN32 l.ya || isNaN32 l.yb || isNaN32 l.yc || isNaN32 l.yd || isNaN32 l.wa || isNaN32 l.wb || isNaN32 l.wc ||
  isNaN32 l.ydpp

end Sys2Proof.Machine
end

