-- ==== Sys2Proof/Certificates/Slice0/Obligations.lean ====
section
/-! DEFINITION. The statements for the provers, from the numbered rules of the spec. -/

open Sys2Proof Sys2Proof.Machine

/-! ### Encoding (spec/30_encoding.md) -/

/-- Decoding an encoded command gives it back, as a word, as bytes followed by any bytes, and in the opcode table's
numbering (R301, R302, R304). -/
def Obligations.DecodeInvertsEncode : Prop :=
  ∀ (i : Instr) (rest : List Byte),
    decode (encode i) = .ok i ∧ decodeBytes (encodeBytes i ++ rest) = .ok (i, rest) ∧
    decodeTableWord 32 (encode i).toNat = some i

/-- A word decodes to a command exactly when it is that command's word: no two words are one command (R304, R306). -/
def Obligations.DecodedWordIsTheEncoding : Prop :=
  ∀ (w : Word) (i : Instr), decode w = .ok i ↔ encode i = w

/-- The command words R304 lists decode to the commands it names. -/
def Obligations.CommandWordsOfTheOpcodeMap : Prop :=
  decode 0x00000000#32 = .ok .nop ∧ decode 0x01000000#32 = .ok .reset ∧ decode 0x02000000#32 = .ok .clrst ∧
  decode 0x10000000#32 = .ok .tanh ∧ decode 0x30000000#32 = .ok .vca ∧ decode 0x31000000#32 = .ok .vcf ∧
  decode 0x32000000#32 = .ok .bass ∧ decode 0x40000000#32 = .ok .dyn ∧
  ∀ c i : BitVec 4,
    decode (0x20000000#32 ||| (c.setWidth 32 <<< 20)) = .ok (.ups c) ∧
    decode (0x21000000#32 ||| (c.setWidth 32 <<< 20) ||| (i.setWidth 32 <<< 16)) = .ok (.lstep c i) ∧
    decode (0x22000000#32 ||| (c.setWidth 32 <<< 20)) = .ok (.dec c) ∧
    decode (0x23000000#32 ||| (c.setWidth 32 <<< 20)) = .ok (.filt c)

/-- A word names a command the machine accepts exactly when the six conditions of R305 hold of its fields, for the factor
N in force; the codes 1, 2 and 3 of CFG.OSF make N 2, 4 and 8. -/
def Obligations.LegalWordsAreThoseOfTheRule : Prop :=
  ∀ (s : State) (w : Word), ((∃ i, decode w = .ok i ∧ s.legal i = true) ↔ LegalWord w s.nch s.factor) ∧
    ∀ n ku kd, OsfSelects s n ku kd →
      s.factor = n ∧ ((∃ i, decode w = .ok i ∧ s.legal i = true) ↔ LegalWord w s.nch n)

/-- A 32-bit write to CMD runs the command of a legal word; an illegal word changes nothing but the ILLCMD record (R300). -/
def Obligations.CmdWriteRunsOrRaises : Prop :=
  ∀ (s : State) (addr : Nat) (w : Word), s.rstN = true → offsetOf addr = 0x000 →
    (LegalWord w s.nch s.factor →
      ∃ i, encode i = w ∧ step (s.withAccess (.write .b32 addr w)) = exec i s) ∧
    (¬ LegalWord w s.nch s.factor →
      step (s.withAccess (.write .b32 addr w)) =
        .next { s with status := s.status ||| 0x00000001#32, evtInfo := 0x00000001#32, evtData := w })

/-- A step runs the command whose word is written to CMD, with that input served; with no input it is idle (R210, R1002).
The queue of inputs is the model's (log entry 1), and so is `withFetchWord`, which also raises RST_N (log entry 8): the first
clause is about a CORE out of reset. -/
def Obligations.StepRunsTheCommandWord : Prop :=
  ∀ (s : State) (w : Word) (i : Instr), decode w = .ok i →
    step (s.withFetchWord 32 w.toNat) = exec i { s with rstN := true } ∧
    (∀ rest, s.rstN = true → s.inputs = commandInput w :: rest → step s = exec i { s with inputs := rest }) ∧
    (s.inputs = [] → step s = .next s)

/-! ### The register window (spec/10_state.md, spec/20_memory.md) -/

/-- A narrow or misaligned access: a read returns 0, a write is dropped, and BUSERR is recorded (R202). That EVT_DATA of an
8 or 16 bit write is the whole 32-bit word is read from R111 (DEDUCED, log entry 15). -/
def Obligations.BusErrorAccessEffects : Prop :=
  ∀ (s : State) (w : Width) (addr : Nat) (v : Word), s.rstN = true → (w ≠ .b32 ∨ addr % 4 ≠ 0) →
    step (s.withAccess (.read w addr)) =
      .next { s with
        rdata := 0, status := s.status ||| 0x00000002#32
        evtInfo := BitVec.ofNat 32 (addr % 0x1000 * 2 ^ 12 + 2), evtData := 0 } ∧
    step (s.withAccess (.write w addr v)) =
      .next { s with
        status := s.status ||| 0x00000002#32
        evtInfo := BitVec.ofNat 32 (addr % 0x1000 * 2 ^ 12 + 2), evtData := v }

/-- The register map of R101 is met at every offset, and only the low 12 address bits are decoded (R200). -/
def Obligations.RegisterMapOfTheWindow : Prop :=
  (∀ (off : Nat) (r : Reg), off < 0x1000 → off % 4 = 0 → r ≠ .reserved →
    (regAt off = r ↔ regOffset r = some off)) ∧
  ∀ (s : State) (w : Width) (a b : Nat) (v : Word), a % 0x1000 = b % 0x1000 →
    step (s.withAccess (.read w a)) = step (s.withAccess (.read w b)) ∧
    step (s.withAccess (.write w a v)) = step (s.withAccess (.write w b v))

/-- The access rules common to all registers (R160): a read returns the register and changes nothing of the CORE; CMD,
reserved offsets and absent channels read 0; RO and reserved offsets and absent channels ignore writes; a plain register
stores the value as given and nothing else changes. -/
def Obligations.AccessRulesOfAllRegisters : Prop :=
  ∀ (s : State) (addr : Nat), s.rstN = true → addr % 4 = 0 →
    step (s.withAccess (.read .b32 addr)) = .next { s with rdata := readReg s (regAt (addr % 0x1000)) } ∧
    (isZeroReg s.nch (regAt (addr % 0x1000)) = true → readReg s (regAt (addr % 0x1000)) = 0) ∧
    (isIgnoredReg s.nch (regAt (addr % 0x1000)) = true → ∀ v, step (s.withAccess (.write .b32 addr v)) = .next s) ∧
    (isPlainReg s.nch (regAt (addr % 0x1000)) = true → ∀ v, ∃ t,
      step (s.withAccess (.write .b32 addr v)) = .next t ∧ readReg t (regAt (addr % 0x1000)) = v ∧
      (∀ r, r ≠ regAt (addr % 0x1000) → readReg t r = readReg s r) ∧ SameHost s t ∧ SameInternal s t)

/-- STATUS is write-one-to-clear; IRQ_EN keeps the bits of the STATUS layout, ENV_IN bits 1:0 (R110, R113, R133). -/
def Obligations.StatusIrqEnAndEnvInWrites : Prop :=
  ∀ (s : State) (v : Word), s.rstN = true → s.nch ≤ 16 →
    step (s.withAccess (.write .b32 0x004 v)) = .next { s with status := s.status &&& ~~~v } ∧
    (∃ m, step (s.withAccess (.write .b32 0x008 v)) = .next { s with irqEn := m } ∧
      ∀ i, i < 32 → m.getLsbD i = (v.getLsbD i && (decide (i < 4) || (decide (16 ≤ i) && decide (i < 16 + s.nch))))) ∧
    (∃ m, step (s.withAccess (.write .b32 0x280 v)) = .next { s with envIn := m } ∧
      ∀ i, i < 32 → m.getLsbD i = (v.getLsbD i && decide (i < 2)))

/-- A write to CFG: the value stored, the clear of the oversampler state of every channel exactly when the OSF code
changes, and CFGADJ for an OSF code of 0 (R114, R460). -/
def Obligations.CfgWriteAndFactorChange : Prop :=
  ∀ (s : State) (v : Word), s.rstN = true → ∃ t, step (s.withAccess (.write .b32 0x018 v)) = .next t ∧
    t.cfg = (if v.toNat % 4 = 0 then (v &&& 0x000000FC#32) ||| s.params.osfDefault.setWidth 32
      else v &&& 0x000000FF#32) ∧
    (t.cfg.toNat % 4 ≠ s.cfg.toNat % 4 → ∀ c, c < s.nch →
      (t.chan c).uh = List.replicate s.params.q F32.zero ∧
      (t.chan c).dh = List.replicate (8 * s.params.q) F32.zero ∧ ∀ i, i < 8 → (t.chan c).os i = F32.zero) ∧
    (t.cfg.toNat % 4 = s.cfg.toNat % 4 → t.chans = s.chans) ∧
    (∀ r, r ≠ .cfg → (∀ c i, r ≠ .osbuf c i) → isEventReg r = false → readReg t r = readReg s r) ∧
    (if v.toNat % 4 = 0 then Recorded s t .cfgadj 0 0x018 v else NoEvent s t) ∧
    SameHost s t ∧ t.dyn.queue = s.dyn.queue

/-- A write to FS_HOST: a NaN or a rate below 44100 stores 44100.0, a rate above 768000 stores 768000.0, any other value is
stored as given; CFGADJ is recorded exactly when the stored pattern differs from the written one (R115). -/
def Obligations.FsHostWriteRule : Prop :=
  ∀ (s : State) (v : Word), s.rstN = true → ∃ x : F32,
    ((IsNaN v ∨ v = 0xFF800000#32 ∨ (isFinite32 v = true ∧ val32 v < 44100)) → x = 0x472C4400#32) ∧
    ((v = 0x7F800000#32 ∨ (isFinite32 v = true ∧ 768000 < val32 v)) → x = 0x493B8000#32) ∧
    ((isFinite32 v = true ∧ 44100 ≤ val32 v ∧ val32 v ≤ 768000) → x = v) ∧
    WarlWrite s 0x01C .fsHost v x (decide (x ≠ v))

/-- The WARL writes of PEAK_LVL, DYN_TA_MS, DYN_TR_MS and DYN_DEPTH (R130, R150). -/
def Obligations.LegalizingWrites : Prop :=
  ∀ (s : State) (v : Word), s.rstN = true → paramsOk s.params = true →
    (∀ b, (isFinite32 v = true ∧ val32 s.params.envMin ≤ val32 v →
        WarlWrite s (0x218 + bankBase b) (.env b .peakLvl) v v false) ∧
      (¬ (isFinite32 v = true ∧ val32 s.params.envMin ≤ val32 v) →
        WarlWrite s (0x218 + bankBase b) (.env b .peakLvl) v s.params.envMin true)) ∧
    (¬ IsNaN v ∧ v.getLsbD 31 = false →
      WarlWrite s 0x30C .dynTaMs v v false ∧ WarlWrite s 0x310 .dynTrMs v v false) ∧
    (IsNaN v ∨ v.getLsbD 31 = true →
      WarlWrite s 0x30C .dynTaMs v 0 true ∧ WarlWrite s 0x310 .dynTrMs v 0 true) ∧
    (v.toNat ≤ s.params.laMax.toNat → WarlWrite s 0x318 .dynDepth v v false) ∧
    (s.params.laMax.toNat < v.toNat → WarlWrite s 0x318 .dynDepth v s.params.laMax true)

/-- A read of ID returns 0x41544E07 in every state (R112). -/
def Obligations.IdRegisterConstant : Prop :=
  ∀ s : State, s.rstN = true →
    step (s.withAccess (.read .b32 0x014)) = .next { s with rdata := 0x41544E07#32 } ∧
    ∀ v, step (s.withAccess (.write .b32 0x014 v)) = .next s

/-- Reads are idempotent, writes to every register but CMD are idempotent, and writes to CMD are not (R205). -/
def Obligations.IdempotentAccesses : Prop :=
  (∀ (s : State) (addr : Nat), s.rstN = true → addr % 4 = 0 → ∃ t,
    step (s.withAccess (.read .b32 addr)) = .next t ∧ step (t.withAccess (.read .b32 addr)) = .next t) ∧
  (∀ (s : State) (addr : Nat) (v : Word), s.rstN = true → addr % 4 = 0 → regAt (addr % 0x1000) ≠ .cmd → ∃ t,
    step (s.withAccess (.write .b32 addr v)) = .next t ∧ step (t.withAccess (.write .b32 addr v)) = .next t) ∧
  ∃ (s t u : State) (w : Word), s.rstN = true ∧
    step (s.withAccess (.write .b32 0x000 w)) = .next t ∧ step (t.withAccess (.write .b32 0x000 w)) = .next u ∧ u ≠ t

/-! ### Events, interrupt and reset (spec/60_exceptions.md, spec/70_reset_and_hazards.md, spec/45_control.md) -/

/-- IRQ is high exactly when some STATUS bit and its IRQ_EN bit are both 1 (R113, R910). -/
def Obligations.IrqIsAnEnabledPendingSource : Prop :=
  ∀ s : State, s.irq = true ↔ ∃ i, i < 32 ∧ s.status.getLsbD i = true ∧ s.irqEn.getLsbD i = true

/-- A STATUS bit that is set stays set through every step but a W1C write of 1 to it, RESET, and RST_N going low
(R110, R910, R1000). -/
def Obligations.StatusBitsAreSticky : Prop :=
  ∀ (s t : State) (i : Nat), step s = .next t → s.status.getLsbD i = true → t.status.getLsbD i = false →
    (∃ addr v rest, s.inputs = .access (.write .b32 addr v) :: rest ∧ s.rstN = true ∧
      addr % 0x1000 = 0x004 ∧ v.getLsbD i = true) ∨
    (∃ addr rest, s.inputs = .access (.write .b32 addr 0x01000000#32) :: rest ∧ s.rstN = true ∧
      addr % 0x1000 = 0x000) ∨
    (∃ rest, s.inputs = .rstLow :: rest)

/-- Every access records at most one event, and every event has the cause, the channel, the offset and the data that the
table of R901 gives it (R901, R903). That BUSERR of an 8 or 16 bit write records the whole 32-bit word is read from R111
(DEDUCED, log entry 15). -/
def Obligations.EveryEventHasItsCause : Prop :=
  ∀ (s t : State) (a : Access), s.rstN = true → paramsOk s.params = true → step (s.withAccess a) = .next t →
    NoEvent s t ∨
    (∃ addr v, a = .write .b32 addr v ∧ addr % 0x1000 = 0x004 ∧ t = { s with status := s.status &&& ~~~v }) ∨
    (IsCommand a .reset ∧ t.status = 0 ∧ t.evtInfo = 0 ∧ t.evtData = 0) ∨
    (∃ addr w, a = .write .b32 addr w ∧ addr % 0x1000 = 0x000 ∧ ¬ LegalWord w s.nch s.factor ∧
      Recorded s t .illcmd 0 0 w) ∨
    (∃ w addr, (w ≠ .b32 ∨ addr % 4 ≠ 0) ∧
      ((a = .read w addr ∧ Recorded s t .buserr 0 (addr % 0x1000) 0) ∨
        ∃ v, a = .write w addr v ∧ Recorded s t .buserr 0 (addr % 0x1000) v)) ∨
    (∃ addr v, a = .write .b32 addr v ∧
      addr % 0x1000 ∈ [0x018, 0x01C, 0x218, 0x258, 0x30C, 0x310, 0x318] ∧
      readReg t (regAt (addr % 0x1000)) ≠ v ∧ Recorded s t .cfgadj 0 (addr % 0x1000) v) ∨
    (∃ (c : BitVec 4) (d : F32), (IsCommand a (.dec c) ∨ IsCommand a (.filt c) ∨ (IsCommand a .bass ∧ c = 0)) ∧
      isFinite32 d = false ∧ Recorded s t .laddiv c.toNat 0 d) ∨
    (IsCommand a .dyn ∧ Recorded s t .dynrst 0 0 0)

/-- RST_N low puts every register and internal element at its reset value with IRQ low; while it is low an access has no
effect and a read returns 0; RST_N high changes nothing else (R1000, R1001). That VCF.T_DEC resets to a parameter, whose
default is the 1.1 s R1000 prints, is DEDUCED (log entry 4); that RST_N keeps the read data word, and the queue of inputs, are
the model's choice (log entries 9 and 1). -/
def Obligations.ResetInputHoldsTheCore : Prop :=
  ∀ (s : State) (rest : List Input),
    (s.inputs = .rstLow :: rest → ∃ t, step s = .next t ∧ t.rstN = false ∧ t.inputs = rest ∧ t.rdata = s.rdata ∧
      t.params = s.params ∧ t.nch = s.nch ∧ (∀ r, readReg t r = resetReading s.params r) ∧ InternalCleared t ∧
      t.irq = false) ∧
    (s.rstN = false → ∀ w addr v,
      (s.inputs = .access (.read w addr) :: rest → step s = .next { s with inputs := rest, rdata := 0 }) ∧
      (s.inputs = .access (.write w addr v) :: rest → step s = .next { s with inputs := rest })) ∧
    (s.inputs = .rstHigh :: rest → step s = .next { s with inputs := rest, rstN := true })

/-- RESET gives every register and internal element its reset value and raises no event (R810). That VCF.T_DEC resets to a
parameter, whose default is the 1.1 s R1000 prints, is DEDUCED (log entry 4); that RESET keeps the read data word, in
`SameHost`, is the model's choice (log entry 9). -/
def Obligations.ResetCommand : Prop :=
  ∀ s : State, ∃ t, exec .reset s = .next t ∧ (∀ r, readReg t r = resetReading s.params r) ∧ InternalCleared t ∧
    SameHost s t ∧ t.irq = false ∧ IllegalFormsRaise s 0x01

/-- CLRST gives the processing state and the results their reset values and leaves every other register alone (R820). -/
def Obligations.ClrstCommand : Prop :=
  ∀ s : State, ∃ t, exec .clrst s = .next t ∧
    (∀ r, readReg t r = if clearedByClrst r then resetReading s.params r else readReg s r) ∧ InternalCleared t ∧
    SameHost s t ∧ IllegalFormsRaise s 0x02

/-- NOP changes no state; every other word with opcode 0x00 is illegal, and an illegal one records ILLCMD and nothing else
happens (R800). -/
def Obligations.NopCommand : Prop :=
  ∀ s : State, exec .nop s = .next s ∧
    (s.rstN = true → step (s.withAccess (.write .b32 0x000 0x00000000#32)) = .next s) ∧
    (∀ w : Word, w.field 31 24 = 0x00 → w ≠ 0 → ¬ LegalWord w s.nch s.factor) ∧ IllegalFormsRaise s 0x00

/-! ### Arithmetic (spec/00_scope.md R13, R14, R21) -/

/-- Sums, differences and products of finite values are the correctly rounded ones, in both formats, with the signs of
zeros and the results at infinities that IEEE 754 gives (R13(a), (b), (f)). -/
def Obligations.AddSubMulRoundToNearest : Prop :=
  (∀ a b : F32, isFinite32 a = true → isFinite32 b = true →
    Rounds32 (val32 a + val32 b) (f32Add a b) ∧ Rounds32 (val32 a - val32 b) (f32Sub a b) ∧
    Rounds32 (val32 a * val32 b) (f32Mul a b)) ∧
  (∀ a b : F64, isFinite64 a = true → isFinite64 b = true →
    Rounds64 (val64 a + val64 b) (f64Add a b) ∧ Rounds64 (val64 a - val64 b) (f64Sub a b) ∧
    Rounds64 (val64 a * val64 b) (f64Mul a b)) ∧
  SpecialSums binary32 ∧ SpecialProducts binary32 ∧ SpecialSums binary64 ∧ SpecialProducts binary64

/-- Quotients and the narrowing to binary32 are the correctly rounded ones; in both formats a nonzero value over a zero is
an infinity with the sign of the quotient, a zero over a zero is a NaN, and infinite operands and the signs of zeros are as
IEEE 754 gives them; both conversions keep the sign and the infinities (R13(a), (b), (f), (g), R21). -/
def Obligations.DivAndNarrowRoundToNearest : Prop :=
  (∀ a b : F32, isFinite32 a = true → isFinite32 b = true →
    (val32 b ≠ 0 → Rounds32 (val32 a / val32 b) (f32Div a b)) ∧
    (val32 b = 0 → val32 a ≠ 0 → f32Div a b = make32 (neg32 a != neg32 b) 0x7F800000) ∧
    (val32 b = 0 → val32 a = 0 → IsNaN (f32Div a b))) ∧
  (∀ a b : F64, isFinite64 a = true → isFinite64 b = true → val64 b ≠ 0 →
    Rounds64 (val64 a / val64 b) (f64Div a b)) ∧
  SpecialQuotients binary32 ∧ SpecialQuotients binary64 ∧
  (∀ a : F64, (isFinite64 a = true → Rounds32 (val64 a) (narrow32 a)) ∧
    (isNaN64 a = false → (narrow32 a).msb = a.msb) ∧
    (IsSigned binary64.inf a → narrow32 a = withSign a.msb binary32.inf)) ∧
  ∀ a : F32, (isNaN32 a = false → (widen a).msb = a.msb) ∧
    (IsSigned binary32.inf a → widen a = withSign a.msb binary64.inf)

/-- Widening is exact, and narrowing undoes it (R21); integers convert exactly up to 2^24 and 2^53, and `floor` is the
integer part (R16). -/
def Obligations.WideningIsExact : Prop :=
  (∀ x : F32,
    (isFinite32 x = true → isFinite64 (widen x) = true ∧ val64 (widen x) = val32 x) ∧
    (¬ IsNaN x → narrow32 (widen x) = x) ∧ (IsNaN x → IsNaN (narrow32 (widen x)))) ∧
  (∀ n : Nat, n ≤ 2 ^ 24 → isFinite32 (f32OfNat n) = true ∧ val32 (f32OfNat n) = n ∧ (f32OfNat n).msb = false) ∧
  (∀ n : Nat, n ≤ 2 ^ 53 → isFinite64 (f64OfNat n) = true ∧ val64 (f64OfNat n) = n ∧ (f64OfNat n).msb = false) ∧
  ∀ v : F64, isFinite64 v = true → 0 ≤ val64 v → (f64Floor v : Int) = ⌊val64 v⌋

/-- The comparisons are the order of the real values, with the infinities at its ends and a NaN in no relation; `maxf` and
`minf` choose by them; `|v|` and unary minus act on the sign bit alone (R13, R21). -/
def Obligations.ComparisonsFollowTheRealOrder : Prop :=
  IsLessThan binary32 f32Lt ∧ IsAtMost binary32 f32Le ∧ IsLessThan binary64 f64Lt ∧
  (∀ a b : F32, (f32Lt a b = true → f32Max a b = b) ∧ (f32Lt a b = false → f32Max a b = a) ∧
    (f32Lt b a = true → f32Min a b = b) ∧ (f32Lt b a = false → f32Min a b = a) ∧
    f32Abs a = a &&& 0x7FFFFFFF#32 ∧ f32Neg a = a ^^^ 0x80000000#32) ∧
  ∀ a b : F64, (f64Lt a b = true → f64Max a b = b) ∧ (f64Lt a b = false → f64Max a b = a) ∧
    f64Abs a = a &&& 0x7FFFFFFFFFFFFFFF#64 ∧ f64Neg a = a ^^^ 0x8000000000000000#64

/-- Every NaN an operation gives is quiet (R14), and a NaN operand gives a NaN in both formats and through both conversions.
That a NaN `widen` gives is quiet is the model's choice (log entry 5): R14 speaks of the operations of R13. -/
def Obligations.NanResultsAreQuiet : Prop :=
  (∀ a b : F32, QuietIfNaN32 (f32Add a b) ∧ QuietIfNaN32 (f32Sub a b) ∧ QuietIfNaN32 (f32Mul a b) ∧
    QuietIfNaN32 (f32Div a b) ∧
    (IsNaN a ∨ IsNaN b →
      IsNaN (f32Add a b) ∧ IsNaN (f32Sub a b) ∧ IsNaN (f32Mul a b) ∧ IsNaN (f32Div a b))) ∧
  (∀ a b : F64, QuietIfNaN64 (f64Add a b) ∧ QuietIfNaN64 (f64Sub a b) ∧ QuietIfNaN64 (f64Mul a b) ∧
    QuietIfNaN64 (f64Div a b) ∧ QuietIfNaN32 (narrow32 a) ∧
    (isNaN64 a = true ∨ isNaN64 b = true → isNaN64 (f64Add a b) = true ∧ isNaN64 (f64Sub a b) = true ∧
      isNaN64 (f64Mul a b) = true ∧ isNaN64 (f64Div a b) = true) ∧
    (isNaN64 a = true → IsNaN (narrow32 a))) ∧
  ∀ a : F32, QuietIfNaN64 (widen a) ∧ (IsNaN a → isNaN64 (widen a) = true)

/-! ### TANH (spec/40_nonlinear.md) -/

/-- TANH writes TANH_OUT and nothing else: the canonical NaN for a NaN, the rational form below the bound in the order
R401 writes it, and ±1.0 from the bound on (R401, R402, R410). -/
def Obligations.TanhCommand : Prop :=
  ∀ s : State, ∃ y : F32, exec .tanh s = .next { s with tanhOut := y } ∧
    let x := s.tanhIn
    let d := widen x
    let x2 := f64Mul d d
    let num := f64Mul d (f64Add (f64OfNat 135135)
      (f64Mul x2 (f64Add (f64OfNat 17325) (f64Mul x2 (f64Add (f64OfNat 378) x2)))))
    let den := f64Add (f64OfNat 135135)
      (f64Mul x2 (f64Add (f64OfNat 62370) (f64Mul x2 (f64Add (f64OfNat 3150) (f64Mul x2 (f64OfNat 28))))))
    (IsNaN x → y = 0x7FC00000#32) ∧
    (¬ IsNaN x → f64Lt (f64Abs d) s.params.tanhBound = true → y = narrow32 (f64Div num den)) ∧
    (¬ IsNaN x → f64Lt (f64Abs d) s.params.tanhBound = false →
      y = if x.getLsbD 31 then 0xBF800000#32 else 0x3F800000#32) ∧
    (x = 0x7F800000#32 → y = 0x3F800000#32) ∧ (x = 0xFF800000#32 → y = 0xBF800000#32) ∧ IllegalFormsRaise s 0x10

/-- Odd symmetry is exact: negating an operand that is not a NaN negates the result, bit for bit (R403(a)). -/
def Obligations.TanhIsOdd : Prop :=
  ∀ (p : Params) (x : F32), ¬ IsNaN x → tanhOf p (x ^^^ 0x80000000#32) = tanhOf p x ^^^ 0x80000000#32

/-- Finite input gives finite output at the spec's bound, and the nonlinearity of any operand is finite unless the scaled
operand is a NaN (R400, R403(b)). -/
def Obligations.TanhStaysFinite : Prop :=
  ∀ (p : Params) (x : F32), p.tanhBound = 0x4013E147AE147AE1#64 →
    (¬ IsNaN x → isFinite32 (tanhOf p x) = true) ∧
    (¬ IsNaN (f32Div x p.vt2) → isFinite32 (nonlinear p x) = true)

/-! ### UPS and DEC (spec/41_oversampling.md) -/

/-- UPS shifts LAD_IN into the history and writes the N polyphase sums with the kernel P_KUP_N of the factor N that CFG.OSF
selects; nothing else changes (R452). -/
def Obligations.UpsCommand : Prop :=
  ∀ (s : State) (c : BitVec 4), s.legal (.ups c) = true → 1 ≤ s.params.q →
    (s.chan c.toNat).uh.length = s.params.q → ∃ t, exec (.ups c) s = .next t ∧
    (∀ j, j < s.params.q → (t.chan c.toNat).uh.getD j F32.zero =
      if j = 0 then (s.chan c.toNat).ladIn else (s.chan c.toNat).uh.getD (j - 1) F32.zero) ∧
    (t.chan c.toNat).uh.length = s.params.q ∧
    (∀ i, i < 8 → (t.chan c.toNat).os i =
      if i < s.factor then
        (List.range s.params.q).foldl (fun acc j => f32Add acc (f32Mul
          ((kup s.params (osfOf s.cfg)).getD (j * s.factor + i) F32.zero) ((t.chan c.toNat).uh.getD j F32.zero))) F32.zero
      else (s.chan c.toNat).os i) ∧
    (∀ n ku kd, OsfSelects s n ku kd → s.factor = n ∧ kup s.params (osfOf s.cfg) = ku) ∧
    (t.chan c.toNat).dh = (s.chan c.toNat).dh ∧ (∀ c', c' ≠ c.toNat → t.chan c' = s.chan c') ∧
    SameRegs s t (writtenBy (.ups c)) ∧ SameHost s t ∧ t.dyn.queue = s.dyn.queue ∧ IllegalFormsRaise s 0x20

/-- DEC shifts the N oversampled samples in, the newest first, and writes the FIR sum with the kernel P_KDN_N of the factor
N that CFG.OSF selects to LAD_OUT; a sum that is not finite runs the divergence recovery instead; nothing else changes (R453,
R530). -/
def Obligations.DecCommand : Prop :=
  ∀ (s : State) (c : BitVec 4), s.legal (.dec c) = true → 1 ≤ s.params.q →
    (s.chan c.toNat).dh.length = 8 * s.params.q → ∃ t H acc, exec (.dec c) s = .next t ∧
    H.length = 8 * s.params.q ∧
    (∀ k, k < 8 * s.params.q → H.getD k F32.zero =
      if s.factor * s.params.q ≤ k then (s.chan c.toNat).dh.getD k F32.zero
      else if k < s.factor then (s.chan c.toNat).os (s.factor - 1 - k)
      else (s.chan c.toNat).dh.getD (k - s.factor) F32.zero) ∧
    acc = (List.range (s.factor * s.params.q)).foldl (fun a k => f32Add a (f32Mul
      ((kdn s.params (osfOf s.cfg)).getD k F32.zero) (H.getD k F32.zero))) F32.zero ∧
    (∀ n ku kd, OsfSelects s n ku kd → s.factor = n ∧ kdn s.params (osfOf s.cfg) = kd) ∧
    (isFinite32 acc = true → t.chan c.toNat = { s.chan c.toNat with dh := H, ladOut := acc } ∧ NoEvent s t) ∧
    (isFinite32 acc = false →
      t.chan c.toNat = { s.chan c.toNat with
        ladOut := F32.zero, lstate := LadderState.zero, osbuf := Vector.replicate 8 F32.zero
        uh := List.replicate s.params.q F32.zero, dh := List.replicate (8 * s.params.q) F32.zero } ∧
      Recorded s t .laddiv c.toNat 0 acc) ∧
    (∀ c', c' ≠ c.toNat → t.chan c' = s.chan c') ∧
    (∀ r, writtenBy (.dec c) r = false → isEventReg r = false → readReg t r = readReg s r) ∧
    SameHost s t ∧ t.dyn.queue = s.dyn.queue ∧ IllegalFormsRaise s 0x22

/-- With the test kernels at factor 2 the round trip UPS, DEC gives back every value whose half is a normal number
(R451, R462). -/
def Obligations.DcRoundTripAtFactorTwo : Prop :=
  ∀ (s : State) (c : BitVec 4), c.toNat < s.nch → s.factor = 2 → s.params.q = 1 →
    s.params.kup2 = [F32.one, F32.one] → s.params.kdn2 = [0x3F000000#32, 0x3F000000#32] →
    (s.chan c.toNat).uh.length = 1 → (s.chan c.toNat).dh.length = 8 →
    isFinite32 (s.chan c.toNat).ladIn = true → (2 : ℚ) ^ (-125 : Int) ≤ |val32 (s.chan c.toNat).ladIn| →
    ∃ t, runCommands [.ups c, .dec c] s = .next t ∧ (t.chan c.toNat).ladOut = (s.chan c.toNat).ladIn ∧ NoEvent s t

/-! ### The ladder (spec/42_ladder.md) -/

/-- LSTEP: the coefficients, the recurrence, the state shift and the output in the order R502, R503, R504 and R510 write
them; nothing else changes. -/
def Obligations.LstepCommand : Prop :=
  ∀ (s : State) (c i : BitVec 4), s.legal (.lstep c i) = true → s.gresReady = true →
    let p := s.params
    let ch := s.chan c.toNat
    let l := ch.lstate
    let wc := f64Div (f64Mul (f64Mul (f64OfNat 2) 0x400921FB54442D18#64) (widen ch.ladFc))
      (f64Mul (f64OfNat s.factor) (widen s.fsHost))
    let pg := fun w => f64Add p.gc0 (f64Mul w (f64Add p.gc1 (f64Mul w (f64Add p.gc2 (f64Mul w p.gc3)))))
    let g := narrow32 (f64Mul (widen p.vt2) (pg wc))
    let g2 := narrow32 (f64Mul (widen p.vt2) (pg (f64Mul (f64OfNat 2) wc)))
    let gA := if s.cfg.getLsbD 3 then g2 else g
    let nl := fun v => tanhOf p (f32Div v p.vt2)
    ∃ (t : State) (gres : F32), exec (.lstep c i) s = .next t ∧
      (∀ n ku kd, OsfSelects s n ku kd → s.factor = n) ∧
      (s.cfg.getLsbD 2 = false → gres = narrow32 p.gresFixed) ∧
      (s.cfg.getLsbD 2 = true → ∃ q, p.gres = some q ∧ gres = narrow32 (f64Add q.c0 (f64Mul wc (f64Add q.c1
        (f64Mul wc (f64Add q.c2 (f64Mul wc (f64Add q.c3 (f64Mul wc q.c4))))))))) ∧
      (let fb := f32Mul (f32Mul (f32Mul (f32OfNat 2) gres) ch.ladRes) (f32Add l.yd l.ydpp)
       let xin := f32Sub (f32Mul (ch.os i.toNat) p.inScale) fb
       let ya := f32Add l.ya (f32Mul gA (f32Sub (nl xin) l.wa))
       let yb := f32Add l.yb (f32Mul g (f32Sub (nl ya) l.wb))
       let yc := f32Add l.yc (f32Mul g (f32Sub (nl yb) l.wc))
       let yd := f32Add l.yd (f32Mul g (f32Sub (nl yc) (nl l.yd)))
       (t.chan c.toNat).lstate =
         { ya := ya, yb := yb, yc := yc, yd := yd, wa := nl ya, wb := nl yb, wc := nl yc, ydpp := l.yd } ∧
       (t.chan c.toNat).os i.toNat = f32Div yd p.inScale) ∧
      (∀ j, j < 8 → j ≠ i.toNat → (t.chan c.toNat).os j = ch.os j) ∧
      (t.chan c.toNat).uh = ch.uh ∧ (t.chan c.toNat).dh = ch.dh ∧ (∀ c', c' ≠ c.toNat → t.chan c' = s.chan c') ∧
      SameRegs s t (writtenBy (.lstep c i)) ∧ SameHost s t ∧ t.dyn.queue = s.dyn.queue ∧ IllegalFormsRaise s 0x21

/-- FILT completes, with a finite LAD_OUT, at most the one event LADDIV of its channel, and every other register, channel
and unit as before (R520, R530). -/
def Obligations.FiltCommand : Prop :=
  ∀ (s : State) (c : BitVec 4), s.legal (.filt c) = true → s.gresReady = true → ∃ t,
    exec (.filt c) s = .next t ∧ runCommands (filtx c s.factor) s = .next t ∧
    isFinite32 (t.chan c.toNat).ladOut = true ∧
    (NoEvent s t ∨ ∃ d, isFinite32 d = false ∧ Recorded s t .laddiv c.toNat 0 d ∧
      (t.chan c.toNat).ladOut = F32.zero ∧ (t.chan c.toNat).lstate = LadderState.zero) ∧
    (t.chan c.toNat).ladIn = (s.chan c.toNat).ladIn ∧ (t.chan c.toNat).ladFc = (s.chan c.toNat).ladFc ∧
    (t.chan c.toNat).ladRes = (s.chan c.toNat).ladRes ∧ (∀ c', c' ≠ c.toNat → t.chan c' = s.chan c') ∧
    (∀ r, writtenBy (.filt c) r = false → isEventReg r = false → readReg t r = readReg s r) ∧
    SameHost s t ∧ t.dyn.queue = s.dyn.queue ∧ IllegalFormsRaise s 0x23

/-- FILT c has exactly the outcome of UPS c, LSTEP c, 0 to LSTEP c, N−1, DEC c, as commands and as N + 2 bus accesses
with no other access between them (R521). -/
def Obligations.FiltEqualsFiltx : Prop :=
  ∀ (s : State) (c : BitVec 4), c.toNat < s.nch →
    exec (.filt c) s = runCommands (filtx c s.factor) s ∧
    (s.rstN = true → ∀ rest,
      Sys2Proof.core.step { s with inputs := commandInput (encode (.filt c)) :: rest } =
        Sys2Proof.core.run (s.factor + 2)
          { s with inputs := (filtx c s.factor).map (fun i => commandInput (encode i)) ++ rest })

/-- A NaN in LAD_IN, LAD_FC, LAD_RES or the ladder state is zeroed within the same FILT frame: LAD_OUT and the state are
+0.0 and LADDIV records a NaN (R530, R533). -/
def Obligations.NanIsZeroedWithinOneFrame : Prop :=
  ∀ (s : State) (c : BitVec 4), s.legal (.filt c) = true → s.gresReady = true → 1 ≤ s.params.q →
    (s.chan c.toNat).uh.length = s.params.q → (s.chan c.toNat).dh.length = 8 * s.params.q →
    (IsNaN (s.chan c.toNat).ladIn ∨ IsNaN (s.chan c.toNat).ladFc ∨ IsNaN (s.chan c.toNat).ladRes ∨
      (s.chan c.toNat).lstate.hasNaN = true) →
    ∃ t d, exec (.filt c) s = .next t ∧ IsNaN d ∧ Recorded s t .laddiv c.toNat 0 d ∧
      (t.chan c.toNat).ladOut = F32.zero ∧ (t.chan c.toNat).lstate = LadderState.zero

/-- A command on channel c changes no other channel, and what it does to channel c, and the event it records, depend on
that channel, CFG, FS_HOST and the parameters alone (R125). -/
def Obligations.ChannelsAreIndependent : Prop :=
  ∀ (s₁ s₂ t₁ : State) (c k : BitVec 4) (i : Instr),
    (i = .ups c ∨ i = .lstep c k ∨ i = .dec c ∨ i = .filt c) →
    s₁.params = s₂.params → s₁.nch = s₂.nch → s₁.cfg = s₂.cfg → s₁.fsHost = s₂.fsHost →
    s₁.chan c.toNat = s₂.chan c.toNat → exec i s₁ = .next t₁ →
    (∀ c', c' ≠ c.toNat → t₁.chan c' = s₁.chan c') ∧
    ∃ t₂, exec i s₂ = .next t₂ ∧ t₂.chan c.toNat = t₁.chan c.toNat ∧
      ((NoEvent s₁ t₁ ∧ NoEvent s₂ t₂) ∨
        ∃ code ch off d₁ d₂, Recorded s₁ t₁ code ch off d₁ ∧ Recorded s₂ t₂ code ch off d₂ ∧
          (d₁ = d₂ ∨ (IsNaN d₁ ∧ IsNaN d₂)))

/-- A step gives a next state unless it is to run LSTEP, FILT or BASS with CFG.TRES = 1 and no P_GRES_C0..C4 supplied, and
then it is refused (R900, spec/93_implementation_defined.md I7). I7 speaks of the ladder step; that FILT and BASS are refused
whole is the model's choice (log entry 6). -/
def Obligations.OnlyTheUnsuppliedQuarticStopsAStep : Prop :=
  (∀ s : State, (∃ t, step s = .next t) ∨
    (step s = .refused .gresNotSupplied ∧ s.cfg.getLsbD 2 = true ∧ s.params.gres = none ∧
      ∃ a rest i, s.inputs = .access a :: rest ∧ IsCommand a i ∧
        ((∃ c k, i = .lstep c k) ∨ (∃ c, i = .filt c) ∨ i = .bass))) ∧
  ∀ (s : State) (i : Instr), s.cfg.getLsbD 2 = true → s.params.gres = none → s.legal i = true →
    ((∃ c k, i = .lstep c k) ∨ (∃ c, i = .filt c) ∨ i = .bass) → exec i s = .refused .gresNotSupplied

/-! ### The envelopes (spec/43_envelope.md) -/

/-- steps(T) of R601: the product's floor, 1 for a NaN or a product below 1, and 2^24 above 2^24. -/
def Obligations.StepsConversion : Prop :=
  ∀ (fs : F32) (T : F64),
    let v := f64Mul T (widen fs)
    (isNaN64 v = true → stepsOf fs T = 1) ∧
    ((v = 0xFFF0000000000000#64 ∨ (isFinite64 v = true ∧ val64 v < 1)) → stepsOf fs T = 1) ∧
    ((v = 0x7FF0000000000000#64 ∨ (isFinite64 v = true ∧ 16777216 < val64 v)) → stepsOf fs T = 16777216) ∧
    (isFinite64 v = true → 1 ≤ val64 v → val64 v ≤ 16777216 → ((stepsOf fs T).toNat : Int) = ⌊val64 v⌋)

/-- The mode after a tick is the one the transition table of R610 gives. -/
def Obligations.EnvelopeTransitionTable : Prop :=
  ∀ (tr : TR) (k : EnvCtx) (e : EnvBank),
    (envTick tr k e).mode =
      nextMode k.bank e.acc (k.gate && !e.gprev) (!k.gate && e.gprev) k.gmode
        (decide (e.target.toNat < (satInc e.step).toNat)) (f32Le (envTick tr k e).current k.p.envMin) e.mode

/-- The edges of R603, with the whole bank after the edge's tick: a rising edge starts an attack from the current level, a
falling edge in gate mode ends ATTACK, PEAK and DECAY, any other falling edge changes only gprev, and ACCENT matters at a
rising edge alone. The level of an edge tick is that of step 0 (R602): a finite level does not jump. -/
def Obligations.EdgesStartAndEndTheNote : Prop :=
  ∀ (tr : TR) (k : EnvCtx) (e : EnvBank),
    (envTick tr k e).gprev = k.gate ∧
    (k.gate = true → e.gprev = false →
      let peak := if k.accent then e.peakLvl else 0x3F800000#32
      let level := f32Add (f32Mul e.current (f32Sub F32.one F32.zero)) (f32Mul peak F32.zero)
      envTick tr k e = { e with
        gprev := true, acc := k.accent, mode := .attack, step := 1, start := e.current, peakt := peak
        target := stepsOf k.fs (f64Add (widen e.tAtt)
          (if k.accent then f64Mul (widen k.res0) (widen e.tAccAtt) else 0))
        current := level, level := level } ∧
      (isFinite32 e.current = true → e.current.getLsbD 31 = false → isFinite32 peak = true → level = e.current)) ∧
    (k.gate = false → e.gprev = true → k.gmode = true → (e.mode = .attack ∨ e.mode = .peak ∨ e.mode = .decay) →
      let level := f32Mul e.current (f32Sub F32.one F32.zero)
      envTick tr k e = { e with
        gprev := false, mode := .noteEnd, step := 1, target := stepsOf k.fs (widen e.tEnd), start := e.current
        current := level, level := level } ∧
      (¬ IsNaN e.current → level = e.current)) ∧
    (k.gate = false → e.gprev = true → (k.gmode = false ∨ e.mode = .noteEnd ∨ e.mode = .silence) →
      envTick tr k e = envTick tr k { e with gprev := false }) ∧
    (¬ (k.gate = true ∧ e.gprev = false) → ∀ x, envTick tr { k with accent := x } e = envTick tr k e)

/-- The level of a tick without an edge, by mode, and its relation to CURRENT (R602, R604 to R607, R611). -/
def Obligations.EnvelopeLevelOfEachMode : Prop :=
  ∀ (tr : TR) (k : EnvCtx) (e : EnvBank), k.gate = e.gprev →
    let e' := envTick tr k e
    let t := f32Div (f32OfNat e.step.toNat) (f32OfNat e.target.toNat)
    let u := f32Sub t F32.one
    let c := if e.acc then f32Add (f32Neg (f32Mul u u)) F32.one else t
    (e.mode = .attack → e'.level = f32Add (f32Mul e.start (f32Sub F32.one c)) (f32Mul e.peakt c)) ∧
    (e.mode = .peak → e'.level = e.peakt) ∧
    (e.mode = .decay → e'.level =
      if k.lin then f32Max (f32Sub e.current e.factor) k.p.envMin else f32Mul e.current e.factor) ∧
    (e.mode = .noteEnd → e'.level = f32Mul e.start (f32Sub F32.one t)) ∧
    (e.mode = .silence → e'.level = F32.zero) ∧
    e'.current = (if e'.mode = .silence then k.p.envMin else e'.level)

/-- The counter and what a mode's end computes (R606, R608, R609): the step counts up while it does not exceed the target;
PEAK, DECAY and NOTE_END are entered at step 0 with the target and factor or start R602 gives; the accented VCF decay above
the floor goes on counting. What an end does not compute stays. -/
def Obligations.CounterTriggeredEntries : Prop :=
  ∀ (tr : TR) (k : EnvCtx) (e : EnvBank), k.gate = e.gprev →
    let e' := envTick tr k e
    let step' := if e.step = 0xFFFFFFFF#32 then e.step else e.step + 1
    let done := e.target.toNat < step'.toNat
    e'.acc = e.acc ∧ e'.gprev = e.gprev ∧ e'.peakt = e.peakt ∧
    (e.mode ≠ .silence → ¬ done → e'.mode = e.mode ∧ e'.target = e.target ∧ e'.factor = e.factor ∧ e'.start = e.start ∧
      e'.step = step') ∧
    (e.mode = .attack → e.acc = true → done →
      e'.mode = .peak ∧ e'.step = 0 ∧ e'.target = stepsOf k.fs (widen e.tPeak) ∧
      e'.factor = e.factor ∧ e'.start = e.start) ∧
    (((e.mode = .attack ∧ e.acc = false) ∨ e.mode = .peak) → done →
      let cur := widen e'.level
      let m := widen k.p.envMin
      let T := f64OfNat e'.target.toNat
      e'.mode = .decay ∧ e'.step = 0 ∧ e'.target = stepsOf k.fs (widen (if e.acc then e.tAccDec else e.tDec)) ∧
      e'.start = e.start ∧
      e'.factor = narrow32 (f64Max 0 (if k.lin then f64Div (f64Sub cur m) T
        else f64Add 0x3FF0000000000000#64 (f64Div (f64Sub (trLn tr m) (trLn tr cur)) T)))) ∧
    (e.mode = .decay → done → ¬ (k.bank = .vcf ∧ e.acc = true ∧ f32Le e'.level k.p.envMin = false) →
      e'.mode = .noteEnd ∧ e'.step = 0 ∧ e'.target = stepsOf k.fs (widen e.tEnd) ∧ e'.start = e'.level ∧
      e'.factor = e.factor) ∧
    (e.mode = .decay → done → k.bank = .vcf → e.acc = true → f32Le e'.level k.p.envMin = false →
      e'.mode = .decay ∧ e'.step = step' ∧ e'.target = e.target ∧ e'.factor = e.factor ∧ e'.start = e.start) ∧
    (e.mode = .noteEnd → done → e'.mode = .silence ∧ e'.current = k.p.envMin ∧ e'.step = step' ∧
      e'.target = e.target ∧ e'.factor = e.factor ∧ e'.start = e.start)

/-- At step = target an attack outputs exactly the level it ramps to (R604, R612(a)). -/
def Obligations.AttackReachesItsPeak : Prop :=
  ∀ (tr : TR) (k : EnvCtx) (e : EnvBank), k.gate = e.gprev → e.mode = .attack → e.step = e.target →
    1 ≤ e.target.toNat → e.target.toNat ≤ 2 ^ 24 → isFinite32 e.start = true → isFinite32 e.peakt = true →
    val32 e.peakt ≠ 0 → (envTick tr k e).level = e.peakt

/-- After a falling edge in gate mode from ATTACK, PEAK or DECAY, with the gate low from then on, the level is exactly +0.0
and the mode SILENCE at the tick steps(T_END) after the edge tick, and not before (R607, R612(d)). -/
def Obligations.NoteEndReachesSilence : Prop :=
  ∀ (tr : TR) (k : EnvCtx) (ks : List EnvCtx) (e : EnvBank),
    k.gate = false → e.gprev = true → k.gmode = true → (e.mode = .attack ∨ e.mode = .peak ∨ e.mode = .decay) →
    isFinite32 e.current = true → e.current.getLsbD 31 = false → (∀ k' ∈ ks, k'.gate = false) →
    (ks.length < (stepsOf k.fs (widen e.tEnd)).toNat → (envRun tr (k :: ks) e).mode = .noteEnd) ∧
    (ks.length = (stepsOf k.fs (widen e.tEnd)).toNat →
      (envRun tr (k :: ks) e).mode = .silence ∧ (envRun tr (k :: ks) e).level = F32.zero)

/-- SILENCE is absorbing: without a rising edge a tick writes level +0.0 and current MIN and changes nothing else but gprev;
a rising edge starts the next attack from current, which is MIN after any SILENCE tick (R611). -/
def Obligations.SilenceIsAbsorbing : Prop :=
  ∀ (tr : TR) (k : EnvCtx) (e : EnvBank), e.mode = .silence →
    (¬ (k.gate = true ∧ e.gprev = false) →
      envTick tr k e = { e with gprev := k.gate, level := F32.zero, current := k.p.envMin }) ∧
    (∀ k' : EnvCtx, k.gate = false → k'.gate = true →
      (envTick tr k' (envTick tr k e)).mode = .attack ∧ (envTick tr k' (envTick tr k e)).start = k.p.envMin)

/-- A decay tick never raises the level and never makes it negative: linear from a level of at least MIN with a
nonnegative decrement, exponential with a factor from 0 to 1; a linear decay stays at MIN or above, and the tick keeps the
factor, so the next decay tick meets the same premises (R606, R612(b), (c)). -/
def Obligations.DecayNeverRises : Prop :=
  ∀ (tr : TR) (k : EnvCtx) (e : EnvBank), paramsOk k.p = true → k.gate = e.gprev → e.mode = .decay →
    isFinite32 e.current = true → e.current.getLsbD 31 = false →
    isFinite32 e.factor = true → e.factor.getLsbD 31 = false →
    (k.lin = true → val32 k.p.envMin ≤ val32 e.current) → (k.lin = false → val32 e.factor ≤ 1) →
    isFinite32 (envTick tr k e).level = true ∧ (envTick tr k e).level.getLsbD 31 = false ∧
    val32 (envTick tr k e).level ≤ val32 e.current ∧
    (k.lin = true → val32 k.p.envMin ≤ val32 (envTick tr k e).level) ∧
    (envTick tr k e).current = (envTick tr k e).level ∧ (envTick tr k e).factor = e.factor

/-- VCA and VCF tick their own bank once, with the gate, accent, mode, decay shape, rate and resonance their rules name, and
change nothing else; the bank's parameters stay (R600, R620, R621). -/
def Obligations.VcaAndVcfCommands : Prop :=
  ∀ s : State,
    (∃ e, exec .vca s = .next { s with vca := e } ∧
      e = envTick Config.tr
        { p := s.params, bank := .vca, gate := s.envIn.getLsbD 0, accent := s.envIn.getLsbD 1
          gmode := s.cfg.getLsbD 4, lin := s.cfg.getLsbD 5, fs := s.fsHost, res0 := (s.chan 0).ladRes } s.vca ∧
      ∀ r, isEnvState r = false → envRead e r = envRead s.vca r) ∧
    (∃ e, exec .vcf s = .next { s with vcf := e } ∧
      e = envTick Config.tr
        { p := s.params, bank := .vcf, gate := s.envIn.getLsbD 0, accent := s.envIn.getLsbD 1
          gmode := s.cfg.getLsbD 4, lin := s.cfg.getLsbD 6, fs := s.fsHost, res0 := (s.chan 0).ladRes } s.vcf ∧
      ∀ r, isEnvState r = false → envRead e r = envRead s.vcf r) ∧
    IllegalFormsRaise s 0x30 ∧ IllegalFormsRaise s 0x31

/-- BASS is VCA, then VCF, then the clamped cutoff, then FILT 0 with that cutoff in place of LAD_FC[0], then
LAD_OUT[0] · VCA.LEVEL; LAD_FC[0] and everything else stay (R640). -/
def Obligations.BassCommand : Prop :=
  ∀ s : State, s.legal .bass = true → s.gresReady = true → ∃ a b v t : State,
    exec .vca s = .next a ∧ exec .vcf a = .next b ∧
    (let raw := f32Add b.bass.cutBase (f32Mul b.bass.envmod
        (f32Add (f32Mul b.bass.vcfScale b.vcf.level) b.bass.vcfBias))
     let fc := f32Min (f32Max (if isNaN32 raw then b.bass.cutMin else raw) b.bass.cutMin) b.bass.cutMax
     exec (.filt 0) (b.setChan 0 { b.chan 0 with ladFc := fc }) = .next v ∧
     exec .bass s = .next t ∧
     t = { b with
       chans := b.chans.set 0 { v.chan 0 with ladFc := (s.chan 0).ladFc }
       status := v.status, evtInfo := v.evtInfo, evtData := v.evtData
       bass := { b.bass with fcEff := fc, bassOut := f32Mul (v.chan 0).ladOut b.vca.level } }) ∧
    IllegalFormsRaise s 0x32

/-- FC_EFF lies between CUT_MIN and CUT_MAX when they are in order, and is CUT_MAX when they are not (R640). -/
def Obligations.BassCutoffIsClamped : Prop :=
  ∀ s t : State, s.legal .bass = true → exec .bass s = .next t → ¬ IsNaN s.bass.cutMin → ¬ IsNaN s.bass.cutMax →
    (f32Le s.bass.cutMin s.bass.cutMax = true →
      f32Le s.bass.cutMin t.bass.fcEff = true ∧ f32Le t.bass.fcEff s.bass.cutMax = true) ∧
    (f32Lt s.bass.cutMax s.bass.cutMin = true → t.bass.fcEff = s.bass.cutMax)

/-! ### Dynamics (spec/44_dynamics.md) -/

/-- DYN runs one tick in the order R702 writes it: detector input, peak follower, static curve, hysteresis, smoothing,
lookahead, failure handling; nothing outside the unit changes but the DYNRST record (R700, R702 to R708, R720). -/
def Obligations.DynCommand : Prop :=
  ∀ s : State,
    let d := s.dyn
    let tr := Config.tr
    let ts := f64Div (f64OfNat 1) (widen s.fsHost)
    let coef := fun ms : F32 => narrow32 (f64Sub (f64OfNat 1)
      (trExp tr (f64Div (f64Mul (f64Neg s.params.dynK) ts) (f64Div (widen ms) (f64OfNat 1000)))))
    let hystN := f64Floor (f64Mul s.params.hystT (widen s.fsHost))
    let xm := if s.cfg.getLsbD 7 then d.sc else f32Mul (f32Add d.inL d.inR) 0x3F000000#32
    let ax := f32Abs xm
    let peak := if f32Lt d.peak ax then f32Add (f32Mul (f32Sub F32.one (coef d.taMs)) d.peak) (f32Mul (coef d.taMs) ax)
      else f32Mul (f32Sub F32.one (coef d.trMs)) d.peak
    let dB := f64Mul (f64OfNat 20) (trLog10 tr (f64Div (widen peak) s.params.dynRef))
    let lt := widen d.ltDb
    let G := if f64Lt lt dB then f64Mul (f64Sub dB lt) (f64Neg (f64OfNat 1)) else 0
    let f := narrow32 (trPow10 tr (f64Div G (f64OfNat 20)))
    let desired := if f32Lt f d.gain then DynMode.attack else if f32Lt d.gain f then DynMode.release else d.mode
    let cnt := if d.hcnt = 0xFFFFFFFF#32 then d.hcnt else d.hcnt + 1
    let mode := if desired ≠ d.mode ∧ hystN < cnt.toNat then desired else d.mode
    let hcnt := if desired ≠ d.mode ∧ ¬ hystN < cnt.toNat then cnt else 0
    let k := if mode = .attack then coef d.taMs else coef d.trMs
    let gain := f32Add (f32Mul (f32Sub F32.one k) d.gain) (f32Mul k f)
    let q := d.queue ++ [⟨d.inL, d.inR⟩]
    let n := q.length - d.depth.toNat
    let oL := if n = 0 then F32.zero else f32Mul (q.getD (n - 1) ⟨F32.zero, F32.zero⟩).l gain
    let oR := if n = 0 then F32.zero else f32Mul (q.getD (n - 1) ⟨F32.zero, F32.zero⟩).r gain
    (isFinite32 oL = true ∧ isFinite32 oR = true →
      exec .dyn s = .next { s with dyn := { d with
        peak := peak, gain := gain, ctl := f, mode := mode, hcnt := hcnt, queue := q.drop n, outL := oL, outR := oR } }) ∧
    (¬ (isFinite32 oL = true ∧ isFinite32 oR = true) →
      exec .dyn s = .next { s with
        dyn := { d with
          peak := F32.one, gain := F32.one, ctl := F32.one, mode := mode, hcnt := hcnt, queue := q.drop n
          outL := F32.zero, outR := F32.zero }
        status := s.status ||| 0x00000008#32, evtInfo := 0x00000005#32, evtData := 0 }) ∧
    IllegalFormsRaise s 0x40

/-- DYN always completes with finite outputs. The recovery runs exactly when an output of the tick `d` would not be finite:
DYNRST with peak, gain and control value 1.0, both outputs +0.0, and the mode, counter and queue of the tick kept; otherwise
the unit is `d` and no event is recorded (R720, R721(c)). -/
def Obligations.DynHardRecovery : Prop :=
  ∀ s : State,
    let d := dynCompute Config.tr { p := s.params, sc := s.cfg.getLsbD 7, fs := s.fsHost } s.dyn
    ∃ t, exec .dyn s = .next t ∧ isFinite32 t.dyn.outL = true ∧ isFinite32 t.dyn.outR = true ∧
    (isFinite32 d.outL = true ∧ isFinite32 d.outR = true → t.dyn = d ∧ NoEvent s t) ∧
    (isFinite32 d.outL = false ∨ isFinite32 d.outR = false →
      Recorded s t .dynrst 0 0 0 ∧ t.dyn.peak = F32.one ∧ t.dyn.gain = F32.one ∧ t.dyn.ctl = F32.one ∧
      t.dyn.outL = F32.zero ∧ t.dyn.outR = F32.zero ∧
      t.dyn.mode = d.mode ∧ t.dyn.hcnt = d.hcnt ∧ t.dyn.queue = d.queue) ∧
    (∀ r, writtenBy .dyn r = false → isEventReg r = false → readReg t r = readReg s r) ∧
    SameHost s t ∧ t.chans = s.chans

/-- Every DYN raises the hysteresis counter by at most 1 and flips the mode only when the counter plus 1 exceeds HYST_N,
leaving the counter at 0; a step that is no DYN moves neither, but for RESET, CLRST and RST_N going low. So from a counter of
0 no HYST_N DYN commands flip the mode, whatever registers the host writes between them (`u` is the state it leaves): two
flips are at least HYST_N + 1 ticks apart (R706, R721(b)). -/
def Obligations.ModeFlipsAreSpaced : Prop :=
  (∀ s t : State, exec .dyn s = .next t →
    t.dyn.hcnt.toNat ≤ s.dyn.hcnt.toNat + 1 ∧
    (t.dyn.mode ≠ s.dyn.mode → hystCount s.params s.fsHost < s.dyn.hcnt.toNat + 1 ∧ t.dyn.hcnt = 0)) ∧
  (∀ s t : State, step s = .next t → (t.dyn.mode ≠ s.dyn.mode ∨ t.dyn.hcnt ≠ s.dyn.hcnt) →
    (∃ rest, s.inputs = .rstLow :: rest) ∨
    ∃ a rest, s.rstN = true ∧ s.inputs = .access a :: rest ∧
      (IsCommand a .dyn ∨ IsCommand a .reset ∨ IsCommand a .clrst)) ∧
  ∀ (run : Nat → State) (n : Nat), (run 0).dyn.hcnt = 0 →
    (∀ i, i < n → ∃ u : State, u.dyn.hcnt = (run i).dyn.hcnt ∧ u.dyn.mode = (run i).dyn.mode ∧
      n ≤ hystCount u.params u.fsHost ∧ exec .dyn u = .next (run (i + 1))) →
    (run n).dyn.mode = (run 0).dyn.mode

/-- With an empty queue and a constant depth D, the outputs of the first D ticks are +0.0 and the output of tick n is the
pair of tick n − D times that tick's gain, unless the hard recovery ran in that tick (R708(a), R720). -/
def Obligations.LookaheadDelaysByItsDepth : Prop :=
  ∀ (s : State) (xs : List Pair) (x : Pair), s.dyn.queue = [] → ∃ t, runFed (xs ++ [x]) s = .next t ∧
    (xs.length < s.dyn.depth.toNat → t.dyn.outL = F32.zero ∧ t.dyn.outR = F32.zero) ∧
    (s.dyn.depth.toNat ≤ xs.length → ∀ y, (xs ++ [x])[xs.length - s.dyn.depth.toNat]? = some y →
      (t.dyn.outL = f32Mul y.l t.dyn.gain ∧ t.dyn.outR = f32Mul y.r t.dyn.gain) ∨
      (t.dyn.outL = F32.zero ∧ t.dyn.outR = F32.zero ∧ t.dyn.gain = F32.one ∧ t.evtInfo = 0x00000005#32)) ∧
    t.dyn.queue.length = min (xs.length + 1) s.dyn.depth.toNat

/-- The limits of the time constants at the spec's factor 2.2: a time of +0 gives the coefficient 1.0, a time of +∞ gives
0.0 (R700). -/
def Obligations.TimeCoefficientLimits : Prop :=
  ∀ (tr : TR) (p : Params) (fs : F32), p.dynK = 0x400199999999999A#64 →
    f32Le Config.fsMin fs = true → f32Le fs Config.fsMax = true →
    timeCoef tr p fs 0x00000000#32 = F32.one ∧ timeCoef tr p fs 0x7F800000#32 = F32.zero

/-- The control value is exactly 1.0 when the peak in dB is not above the threshold, for a zero peak under any
threshold, and for a NaN peak (R702, R705). -/
def Obligations.StaticCurveIsUnityBelowThreshold : Prop :=
  ∀ (tr : TR) (p : Params) (lt peak : F32),
    (f64Lt (widen lt) (f64Mul (f64OfNat 20) (trLog10 tr (f64Div (widen peak) p.dynRef))) = false →
      staticCurve tr p lt peak = F32.one) ∧
    (p.dynRef = 0x4014000000000000#64 → peak = F32.zero → staticCurve tr p lt peak = F32.one) ∧
    (IsNaN peak → staticCurve tr p lt peak = F32.one)

/-! ### The whole machine -/

/-- A command changes only the registers and internal state its rule names: every other register reads as before, an event
is recorded only by DEC, FILT, BASS and DYN, other channels are untouched, and the queue is DYN's (R125, R831, R901).
RESET and CLRST have statements of their own. -/
def Obligations.CommandsChangeOnlyTheirRegisters : Prop :=
  ∀ (i : Instr) (s t : State), s.legal i = true → i ≠ .reset → i ≠ .clrst → exec i s = .next t →
    (∀ r, writtenBy i r = false → isEventReg r = false → readReg t r = readReg s r) ∧
    (mayRaise i = false → NoEvent s t) ∧ SameHost s t ∧
    (∀ c, touchesChannel i c = false → t.chan c = s.chan c) ∧ (i ≠ .dyn → t.dyn.queue = s.dyn.queue)

/-- Every step keeps the invariant of the CORE, the parameters and the number of channels (R10, R110, R111, R114, R115,
R123, R130, R133, R150, R601, R611, R721, R840, R1001). -/
def Obligations.StepKeepsTheInvariant : Prop :=
  ∀ s t : State, s.inv = true → step s = .next t → t.inv = true ∧ t.params = s.params ∧ t.nch = s.nch

/-- The state after reset meets the invariant, and so does the reset state of any CORE with admissible parameters (R1000).
State.reset reads the values R1000 prints. Its OPEN parameters and reset values are the model's choice (log entries 2, 3 and
4), and no clause says one of them. -/
def Obligations.ResetMeetsTheInvariant : Prop :=
  State.reset.inv = true ∧
  (readReg State.reset .cfg = 0x00000012#32 ∧ readReg State.reset .fsHost = 0x472C4400#32 ∧
    readReg State.reset (.env .vcf .tDec) = 0x3F8CCCCD#32 ∧
    ∀ b, readReg State.reset (.env b .estat) = 4 ∧ readReg State.reset (.env b .target) = 1 ∧
      readReg State.reset (.env b .current) = 0x38D1B717#32 ∧ readReg State.reset (.env b .peakt) = 0x3F800000#32) ∧
  ∀ (p : Params) (n : Nat), paramsOk p = true → 1 ≤ n → n ≤ 16 → (State.ofParams p n).inv = true
end

