-- ==== Sys2Proof/Laws/Float.lean ====
section
/-! SUPPORT. Bit patterns and NaNs: what `make32`, `pack32` and `unpack32` do to sign and magnitude, and how a NaN passes
through every operation (R14). -/

namespace Sys2Proof.Machine

/-! ### Patterns -/

theorem make32_toNat (n : Bool) (g : Nat) (h : g < 0x80000000) :
    (make32 n g).toNat = (if n then 0x80000000 else 0) + g := by
  cases n <;> simp [make32] <;> omega

theorem mag32_make32 (n : Bool) (g : Nat) (h : g < 0x80000000) : mag32 (make32 n g) = g := by
  rw [mag32, make32_toNat n g h]
  cases n <;> (simp; omega)

theorem neg32_make32 (n : Bool) (g : Nat) (h : g < 0x80000000) : neg32 (make32 n g) = n := by
  rw [neg32, make32_toNat n g h]
  cases n <;> simp [h]

theorem mag32_lt (x : F32) : mag32 x < 0x80000000 := Nat.mod_lt _ (by decide)

theorem make32_neg32_mag32 (x : F32) : make32 (neg32 x) (mag32 x) = x := by
  apply BitVec.eq_of_toNat_eq
  rw [make32_toNat _ _ (mag32_lt x)]
  have := x.isLt
  unfold neg32 mag32
  split <;> rename_i h <;> simp only [decide_eq_true_eq] at h <;> omega

theorem make64_toNat (n : Bool) (g : Nat) (h : g < 0x8000000000000000) :
    (make64 n g).toNat = (if n then 0x8000000000000000 else 0) + g := by
  cases n <;> simp [make64] <;> omega

theorem mag64_make64 (n : Bool) (g : Nat) (h : g < 0x8000000000000000) : mag64 (make64 n g) = g := by
  rw [mag64, make64_toNat n g h]
  cases n <;> (simp; omega)

theorem neg64_make64 (n : Bool) (g : Nat) (h : g < 0x8000000000000000) : neg64 (make64 n g) = n := by
  rw [neg64, make64_toNat n g h]
  cases n <;> simp [h]

theorem roundMag_le (frac : Nat) (emin : Int) (b m : Nat) (e : Int) : roundMag frac emin b m e ≤ b := by
  unfold roundMag
  split
  · omega
  · exact Nat.min_le_left _ _

theorem roundMag_zero (frac : Nat) (emin : Int) (b : Nat) (e : Int) : roundMag frac emin b 0 e = 0 := rfl

/-! ### NaNs -/

theorem isNaN32_nan32 (op : FpOp) (a b : Nat) : isNaN32 (nan32 op a b) = true := by
  have h : 0x7FC00000 + (Config.freeNan32 op a b).toNat % 0x400000 < 0x80000000 := by omega
  simp only [isNaN32, nan32, mag32_make32 _ _ h, decide_eq_true_eq]
  omega

theorem quietIfNaN32_nan32 (op : FpOp) (a b : Nat) : QuietIfNaN32 (nan32 op a b) := by
  intro _
  have h : 0x7FC00000 + (Config.freeNan32 op a b).toNat % 0x400000 < 0x80000000 := by omega
  rw [nan32, BitVec.getLsbD, make32_toNat _ _ h, Nat.testBit_eq_decide_div_mod_eq]
  split <;> simp <;> omega

theorem isNaN64_nan64 (op : FpOp) (a b : Nat) : isNaN64 (nan64 op a b) = true := by
  have h : 0x7FF8000000000000 + (Config.freeNan64 op a b).toNat % 0x8000000000000 < 0x8000000000000000 := by omega
  simp only [isNaN64, nan64, mag64_make64 _ _ h, decide_eq_true_eq]
  omega

theorem quietIfNaN64_nan64 (op : FpOp) (a b : Nat) : QuietIfNaN64 (nan64 op a b) := by
  intro _
  have h : 0x7FF8000000000000 + (Config.freeNan64 op a b).toNat % 0x8000000000000 < 0x8000000000000000 := by omega
  rw [nan64, BitVec.getLsbD, make64_toNat _ _ h, Nat.testBit_eq_decide_div_mod_eq]
  split <;> simp <;> omega

/-- A pattern unpacks to the NaN datum exactly when it is a NaN. -/
theorem unpack32_eq_nan (x : F32) : unpack32 x = .nan ↔ isNaN32 x = true := by
  unfold unpack32 isNaN32
  simp only [decide_eq_true_eq]
  constructor
  · intro h
    by_contra hn
    rw [if_neg hn] at h
    split at h
    · cases h
    · split at h <;> cases h
  · intro h
    rw [if_pos h]

theorem unpack64_eq_nan (x : F64) : unpack64 x = .nan ↔ isNaN64 x = true := by
  unfold unpack64 isNaN64
  simp only [decide_eq_true_eq]
  constructor
  · intro h
    by_contra hn
    rw [if_neg hn] at h
    split at h
    · cases h
    · split at h <;> cases h
  · intro h
    rw [if_pos h]

/-- Packing gives a NaN for the NaN datum alone, when the pattern it is told to use is one. -/
theorem isNaN32_pack32 (n : F32) (hn : isNaN32 n = true) (v : Fp) : isNaN32 (pack32 n v) = true ↔ v = .nan := by
  cases v with
  | nan => exact ⟨fun _ => rfl, fun _ => hn⟩
  | inf s => simp [pack32, isNaN32, mag32_make32]
  | fin s m e =>
    have := roundMag_le 23 (-149) 0x7F800000 m e
    simp only [pack32, isNaN32, mag32_make32 _ _ (show roundMag 23 (-149) 0x7F800000 m e < 0x80000000 by omega),
      decide_eq_true_eq, reduceCtorEq, iff_false]
    omega

theorem isNaN64_pack64 (n : F64) (hn : isNaN64 n = true) (v : Fp) : isNaN64 (pack64 n v) = true ↔ v = .nan := by
  cases v with
  | nan => exact ⟨fun _ => rfl, fun _ => hn⟩
  | inf s => simp [pack64, isNaN64, mag64_make64]
  | fin s m e =>
    have := roundMag_le 52 (-1074) 0x7FF0000000000000 m e
    simp only [pack64, isNaN64,
      mag64_make64 _ _ (show roundMag 52 (-1074) 0x7FF0000000000000 m e < 0x8000000000000000 by omega),
      decide_eq_true_eq, reduceCtorEq, iff_false]
    omega

theorem fpAdd_nan_right (v : Fp) : fpAdd v .nan = .nan := by cases v <;> rfl
theorem fpMul_nan_right (v : Fp) : fpMul v .nan = .nan := by cases v <;> rfl
theorem fpDiv_nan_right (k : Nat) (v : Fp) : fpDiv k v .nan = .nan := by cases v <;> rfl

/-- A NaN operand gives a NaN sum, difference, product and quotient. -/
theorem f32Add_nan {a b : F32} (h : isNaN32 a = true ∨ isNaN32 b = true) : isNaN32 (f32Add a b) = true := by
  rw [f32Add, isNaN32_pack32 _ (isNaN32_nan32 ..)]
  rcases h with h | h <;> rw [(unpack32_eq_nan _).2 h]
  · rfl
  · exact fpAdd_nan_right _

theorem f32Sub_nan {a b : F32} (h : isNaN32 a = true ∨ isNaN32 b = true) : isNaN32 (f32Sub a b) = true := by
  rw [f32Sub, isNaN32_pack32 _ (isNaN32_nan32 ..)]
  rcases h with h | h <;> rw [(unpack32_eq_nan _).2 h]
  · rfl
  · exact fpAdd_nan_right _

theorem f32Mul_nan {a b : F32} (h : isNaN32 a = true ∨ isNaN32 b = true) : isNaN32 (f32Mul a b) = true := by
  rw [f32Mul, isNaN32_pack32 _ (isNaN32_nan32 ..)]
  rcases h with h | h <;> rw [(unpack32_eq_nan _).2 h]
  · rfl
  · exact fpMul_nan_right _

theorem f32Div_nan {a b : F32} (h : isNaN32 a = true ∨ isNaN32 b = true) : isNaN32 (f32Div a b) = true := by
  rw [f32Div, isNaN32_pack32 _ (isNaN32_nan32 ..)]
  rcases h with h | h <;> rw [(unpack32_eq_nan _).2 h]
  · rfl
  · exact fpDiv_nan_right _ _

theorem f64Add_nan {a b : F64} (h : isNaN64 a = true ∨ isNaN64 b = true) : isNaN64 (f64Add a b) = true := by
  rw [f64Add, isNaN64_pack64 _ (isNaN64_nan64 ..)]
  rcases h with h | h <;> rw [(unpack64_eq_nan _).2 h]
  · rfl
  · exact fpAdd_nan_right _

theorem f64Mul_nan {a b : F64} (h : isNaN64 a = true ∨ isNaN64 b = true) : isNaN64 (f64Mul a b) = true := by
  rw [f64Mul, isNaN64_pack64 _ (isNaN64_nan64 ..)]
  rcases h with h | h <;> rw [(unpack64_eq_nan _).2 h]
  · rfl
  · exact fpMul_nan_right _

theorem f64Div_nan {a b : F64} (h : isNaN64 a = true ∨ isNaN64 b = true) : isNaN64 (f64Div a b) = true := by
  rw [f64Div, isNaN64_pack64 _ (isNaN64_nan64 ..)]
  rcases h with h | h <;> rw [(unpack64_eq_nan _).2 h]
  · rfl
  · exact fpDiv_nan_right _ _

theorem isNaN64_widen (x : F32) : isNaN64 (widen x) = isNaN32 x := by
  rw [Bool.eq_iff_iff, widen, isNaN64_pack64 _ (isNaN64_nan64 ..), unpack32_eq_nan]

theorem isNaN32_narrow32 (x : F64) : isNaN32 (narrow32 x) = isNaN64 x := by
  rw [Bool.eq_iff_iff, narrow32, isNaN32_pack32 _ (isNaN32_nan32 ..), unpack64_eq_nan]

/-- The nonlinearity gives a NaN for a NaN (R402, R533). -/
theorem nonlinear_nan (p : Params) {x : F32} (h : isNaN32 x = true) : nonlinear p x = canonicalNaN := by
  rw [nonlinear, tanhOf, if_pos (f32Div_nan (.inl h))]

/-! ### Finiteness -/

theorem isFinite32_iff (x : F32) : isFinite32 x = true ↔ ∃ s m e, unpack32 x = .fin s m e := by
  unfold isFinite32 unpack32
  simp only [decide_eq_true_eq]
  constructor
  · intro h
    rw [if_neg (by omega), if_neg (by omega)]
    split <;> exact ⟨_, _, _, rfl⟩
  · rintro ⟨s, m, e, h⟩
    by_contra hn
    split at h
    · cases h
    · rw [if_pos (by omega)] at h
      cases h

theorem isNaN32_of_not_finite {x : F32} (h : isFinite32 x = false) : isNaN32 x = true ∨ mag32 x = 0x7F800000 := by
  simp only [isFinite32, isNaN32, decide_eq_false_iff_not, decide_eq_true_eq] at *
  omega

end Sys2Proof.Machine
end

