-- ==== Sys2Proof/Laws/State.lean ====
section
/-! SUPPORT. The state record: one lemma for each field under each update, and reading back what was replaced. -/

namespace Sys2Proof.Machine

/-! ### Replacing a channel bank -/

@[simp] theorem State.setChan_params (s : State) (c : Nat) (ch : Channel) : (s.setChan c ch).params = s.params := rfl
@[simp] theorem State.setChan_inputs (s : State) (c : Nat) (ch : Channel) : (s.setChan c ch).inputs = s.inputs := rfl
@[simp] theorem State.setChan_rdata (s : State) (c : Nat) (ch : Channel) : (s.setChan c ch).rdata = s.rdata := rfl
@[simp] theorem State.setChan_rstN (s : State) (c : Nat) (ch : Channel) : (s.setChan c ch).rstN = s.rstN := rfl
@[simp] theorem State.setChan_status (s : State) (c : Nat) (ch : Channel) : (s.setChan c ch).status = s.status := rfl
@[simp] theorem State.setChan_irqEn (s : State) (c : Nat) (ch : Channel) : (s.setChan c ch).irqEn = s.irqEn := rfl
@[simp] theorem State.setChan_evtInfo (s : State) (c : Nat) (ch : Channel) : (s.setChan c ch).evtInfo = s.evtInfo := rfl
@[simp] theorem State.setChan_evtData (s : State) (c : Nat) (ch : Channel) : (s.setChan c ch).evtData = s.evtData := rfl
@[simp] theorem State.setChan_cfg (s : State) (c : Nat) (ch : Channel) : (s.setChan c ch).cfg = s.cfg := rfl
@[simp] theorem State.setChan_fsHost (s : State) (c : Nat) (ch : Channel) : (s.setChan c ch).fsHost = s.fsHost := rfl
@[simp] theorem State.setChan_tanhIn (s : State) (c : Nat) (ch : Channel) : (s.setChan c ch).tanhIn = s.tanhIn := rfl
@[simp] theorem State.setChan_tanhOut (s : State) (c : Nat) (ch : Channel) : (s.setChan c ch).tanhOut = s.tanhOut := rfl
@[simp] theorem State.setChan_chans (s : State) (c : Nat) (ch : Channel) : (s.setChan c ch).chans = s.chans.set c ch := rfl
@[simp] theorem State.setChan_vca (s : State) (c : Nat) (ch : Channel) : (s.setChan c ch).vca = s.vca := rfl
@[simp] theorem State.setChan_vcf (s : State) (c : Nat) (ch : Channel) : (s.setChan c ch).vcf = s.vcf := rfl
@[simp] theorem State.setChan_envIn (s : State) (c : Nat) (ch : Channel) : (s.setChan c ch).envIn = s.envIn := rfl
@[simp] theorem State.setChan_bass (s : State) (c : Nat) (ch : Channel) : (s.setChan c ch).bass = s.bass := rfl
@[simp] theorem State.setChan_dyn (s : State) (c : Nat) (ch : Channel) : (s.setChan c ch).dyn = s.dyn := rfl

/-! ### Recording an event -/

@[simp] theorem raiseEvent_params (k : EventCode) (ch off : Nat) (d : Word) (s : State) : (raiseEvent k ch off d s).params = s.params := rfl
@[simp] theorem raiseEvent_inputs (k : EventCode) (ch off : Nat) (d : Word) (s : State) : (raiseEvent k ch off d s).inputs = s.inputs := rfl
@[simp] theorem raiseEvent_rdata (k : EventCode) (ch off : Nat) (d : Word) (s : State) : (raiseEvent k ch off d s).rdata = s.rdata := rfl
@[simp] theorem raiseEvent_rstN (k : EventCode) (ch off : Nat) (d : Word) (s : State) : (raiseEvent k ch off d s).rstN = s.rstN := rfl
@[simp] theorem raiseEvent_status (k : EventCode) (ch off : Nat) (d : Word) (s : State) : (raiseEvent k ch off d s).status = s.status ||| statusBit k ch := rfl
@[simp] theorem raiseEvent_irqEn (k : EventCode) (ch off : Nat) (d : Word) (s : State) : (raiseEvent k ch off d s).irqEn = s.irqEn := rfl
@[simp] theorem raiseEvent_evtInfo (k : EventCode) (ch off : Nat) (d : Word) (s : State) : (raiseEvent k ch off d s).evtInfo = eventInfo k ch off := rfl
@[simp] theorem raiseEvent_evtData (k : EventCode) (ch off : Nat) (d : Word) (s : State) : (raiseEvent k ch off d s).evtData = d := rfl
@[simp] theorem raiseEvent_cfg (k : EventCode) (ch off : Nat) (d : Word) (s : State) : (raiseEvent k ch off d s).cfg = s.cfg := rfl
@[simp] theorem raiseEvent_fsHost (k : EventCode) (ch off : Nat) (d : Word) (s : State) : (raiseEvent k ch off d s).fsHost = s.fsHost := rfl
@[simp] theorem raiseEvent_tanhIn (k : EventCode) (ch off : Nat) (d : Word) (s : State) : (raiseEvent k ch off d s).tanhIn = s.tanhIn := rfl
@[simp] theorem raiseEvent_tanhOut (k : EventCode) (ch off : Nat) (d : Word) (s : State) : (raiseEvent k ch off d s).tanhOut = s.tanhOut := rfl
@[simp] theorem raiseEvent_chans (k : EventCode) (ch off : Nat) (d : Word) (s : State) : (raiseEvent k ch off d s).chans = s.chans := rfl
@[simp] theorem raiseEvent_vca (k : EventCode) (ch off : Nat) (d : Word) (s : State) : (raiseEvent k ch off d s).vca = s.vca := rfl
@[simp] theorem raiseEvent_vcf (k : EventCode) (ch off : Nat) (d : Word) (s : State) : (raiseEvent k ch off d s).vcf = s.vcf := rfl
@[simp] theorem raiseEvent_envIn (k : EventCode) (ch off : Nat) (d : Word) (s : State) : (raiseEvent k ch off d s).envIn = s.envIn := rfl
@[simp] theorem raiseEvent_bass (k : EventCode) (ch off : Nat) (d : Word) (s : State) : (raiseEvent k ch off d s).bass = s.bass := rfl
@[simp] theorem raiseEvent_dyn (k : EventCode) (ch off : Nat) (d : Word) (s : State) : (raiseEvent k ch off d s).dyn = s.dyn := rfl

/-! ### ResetCore -/

@[simp] theorem resetCore_params (s : State) : (resetCore s).params = s.params := rfl
@[simp] theorem resetCore_inputs (s : State) : (resetCore s).inputs = s.inputs := rfl
@[simp] theorem resetCore_rdata (s : State) : (resetCore s).rdata = s.rdata := rfl
@[simp] theorem resetCore_rstN (s : State) : (resetCore s).rstN = s.rstN := rfl
@[simp] theorem resetCore_status (s : State) : (resetCore s).status = 0 := rfl
@[simp] theorem resetCore_irqEn (s : State) : (resetCore s).irqEn = 0 := rfl
@[simp] theorem resetCore_evtInfo (s : State) : (resetCore s).evtInfo = 0 := rfl
@[simp] theorem resetCore_evtData (s : State) : (resetCore s).evtData = 0 := rfl
@[simp] theorem resetCore_cfg (s : State) : (resetCore s).cfg = 0x00000010#32 ||| s.params.osfDefault.setWidth 32 := rfl
@[simp] theorem resetCore_fsHost (s : State) : (resetCore s).fsHost = Config.fsMin := rfl
@[simp] theorem resetCore_tanhIn (s : State) : (resetCore s).tanhIn = F32.zero := rfl
@[simp] theorem resetCore_tanhOut (s : State) : (resetCore s).tanhOut = F32.zero := rfl
@[simp] theorem resetCore_chans (s : State) : (resetCore s).chans = List.replicate s.nch (resetChannel s.params) := rfl
@[simp] theorem resetCore_vca (s : State) : (resetCore s).vca = resetEnv s.params s.params.rv.vca := rfl
@[simp] theorem resetCore_vcf (s : State) : (resetCore s).vcf = resetEnv s.params s.params.rv.vcf := rfl
@[simp] theorem resetCore_envIn (s : State) : (resetCore s).envIn = 0 := rfl
@[simp] theorem resetCore_bass (s : State) : (resetCore s).bass = resetBass s.params := rfl
@[simp] theorem resetCore_dyn (s : State) : (resetCore s).dyn = resetDyn s.params := rfl

/-! ### CLRST -/

@[simp] theorem clearState_params (s : State) : (clearState s).params = s.params := rfl
@[simp] theorem clearState_inputs (s : State) : (clearState s).inputs = s.inputs := rfl
@[simp] theorem clearState_rdata (s : State) : (clearState s).rdata = s.rdata := rfl
@[simp] theorem clearState_rstN (s : State) : (clearState s).rstN = s.rstN := rfl
@[simp] theorem clearState_status (s : State) : (clearState s).status = s.status := rfl
@[simp] theorem clearState_irqEn (s : State) : (clearState s).irqEn = s.irqEn := rfl
@[simp] theorem clearState_evtInfo (s : State) : (clearState s).evtInfo = s.evtInfo := rfl
@[simp] theorem clearState_evtData (s : State) : (clearState s).evtData = s.evtData := rfl
@[simp] theorem clearState_cfg (s : State) : (clearState s).cfg = s.cfg := rfl
@[simp] theorem clearState_fsHost (s : State) : (clearState s).fsHost = s.fsHost := rfl
@[simp] theorem clearState_tanhIn (s : State) : (clearState s).tanhIn = s.tanhIn := rfl
@[simp] theorem clearState_tanhOut (s : State) : (clearState s).tanhOut = F32.zero := rfl
@[simp] theorem clearState_chans (s : State) : (clearState s).chans = s.chans.map (clearProcessing s.params) := rfl
@[simp] theorem clearState_vca (s : State) : (clearState s).vca = clearEnv s.params s.vca := rfl
@[simp] theorem clearState_vcf (s : State) : (clearState s).vcf = clearEnv s.params s.vcf := rfl
@[simp] theorem clearState_envIn (s : State) : (clearState s).envIn = s.envIn := rfl
@[simp] theorem clearState_bass (s : State) : (clearState s).bass = { s.bass with fcEff := F32.zero, bassOut := F32.zero } := rfl
@[simp] theorem clearState_dyn (s : State) : (clearState s).dyn = clearDyn s.dyn := rfl

/-! ### Replacing an envelope bank -/

@[simp] theorem State.setEnv_params (s : State) (b : Bank) (e : EnvBank) : (s.setEnv b e).params = s.params := by cases b <;> rfl
@[simp] theorem State.setEnv_inputs (s : State) (b : Bank) (e : EnvBank) : (s.setEnv b e).inputs = s.inputs := by cases b <;> rfl
@[simp] theorem State.setEnv_rdata (s : State) (b : Bank) (e : EnvBank) : (s.setEnv b e).rdata = s.rdata := by cases b <;> rfl
@[simp] theorem State.setEnv_rstN (s : State) (b : Bank) (e : EnvBank) : (s.setEnv b e).rstN = s.rstN := by cases b <;> rfl
@[simp] theorem State.setEnv_status (s : State) (b : Bank) (e : EnvBank) : (s.setEnv b e).status = s.status := by cases b <;> rfl
@[simp] theorem State.setEnv_irqEn (s : State) (b : Bank) (e : EnvBank) : (s.setEnv b e).irqEn = s.irqEn := by cases b <;> rfl
@[simp] theorem State.setEnv_evtInfo (s : State) (b : Bank) (e : EnvBank) : (s.setEnv b e).evtInfo = s.evtInfo := by cases b <;> rfl
@[simp] theorem State.setEnv_evtData (s : State) (b : Bank) (e : EnvBank) : (s.setEnv b e).evtData = s.evtData := by cases b <;> rfl
@[simp] theorem State.setEnv_cfg (s : State) (b : Bank) (e : EnvBank) : (s.setEnv b e).cfg = s.cfg := by cases b <;> rfl
@[simp] theorem State.setEnv_fsHost (s : State) (b : Bank) (e : EnvBank) : (s.setEnv b e).fsHost = s.fsHost := by cases b <;> rfl
@[simp] theorem State.setEnv_tanhIn (s : State) (b : Bank) (e : EnvBank) : (s.setEnv b e).tanhIn = s.tanhIn := by cases b <;> rfl
@[simp] theorem State.setEnv_tanhOut (s : State) (b : Bank) (e : EnvBank) : (s.setEnv b e).tanhOut = s.tanhOut := by cases b <;> rfl
@[simp] theorem State.setEnv_chans (s : State) (b : Bank) (e : EnvBank) : (s.setEnv b e).chans = s.chans := by cases b <;> rfl
@[simp] theorem State.setEnv_envIn (s : State) (b : Bank) (e : EnvBank) : (s.setEnv b e).envIn = s.envIn := by cases b <;> rfl
@[simp] theorem State.setEnv_bass (s : State) (b : Bank) (e : EnvBank) : (s.setEnv b e).bass = s.bass := by cases b <;> rfl
@[simp] theorem State.setEnv_dyn (s : State) (b : Bank) (e : EnvBank) : (s.setEnv b e).dyn = s.dyn := by cases b <;> rfl

/-! ### Writing a channel register -/

@[simp] theorem State.chanWrite_params (s : State) (c : Nat) (f : Channel → Channel) : (s.chanWrite c f).params = s.params := rfl
@[simp] theorem State.chanWrite_inputs (s : State) (c : Nat) (f : Channel → Channel) : (s.chanWrite c f).inputs = s.inputs := rfl
@[simp] theorem State.chanWrite_rdata (s : State) (c : Nat) (f : Channel → Channel) : (s.chanWrite c f).rdata = s.rdata := rfl
@[simp] theorem State.chanWrite_rstN (s : State) (c : Nat) (f : Channel → Channel) : (s.chanWrite c f).rstN = s.rstN := rfl
@[simp] theorem State.chanWrite_status (s : State) (c : Nat) (f : Channel → Channel) : (s.chanWrite c f).status = s.status := rfl
@[simp] theorem State.chanWrite_irqEn (s : State) (c : Nat) (f : Channel → Channel) : (s.chanWrite c f).irqEn = s.irqEn := rfl
@[simp] theorem State.chanWrite_evtInfo (s : State) (c : Nat) (f : Channel → Channel) : (s.chanWrite c f).evtInfo = s.evtInfo := rfl
@[simp] theorem State.chanWrite_evtData (s : State) (c : Nat) (f : Channel → Channel) : (s.chanWrite c f).evtData = s.evtData := rfl
@[simp] theorem State.chanWrite_cfg (s : State) (c : Nat) (f : Channel → Channel) : (s.chanWrite c f).cfg = s.cfg := rfl
@[simp] theorem State.chanWrite_fsHost (s : State) (c : Nat) (f : Channel → Channel) : (s.chanWrite c f).fsHost = s.fsHost := rfl
@[simp] theorem State.chanWrite_tanhIn (s : State) (c : Nat) (f : Channel → Channel) : (s.chanWrite c f).tanhIn = s.tanhIn := rfl
@[simp] theorem State.chanWrite_tanhOut (s : State) (c : Nat) (f : Channel → Channel) : (s.chanWrite c f).tanhOut = s.tanhOut := rfl
@[simp] theorem State.chanWrite_chans (s : State) (c : Nat) (f : Channel → Channel) : (s.chanWrite c f).chans = s.chans.modify c f := rfl
@[simp] theorem State.chanWrite_vca (s : State) (c : Nat) (f : Channel → Channel) : (s.chanWrite c f).vca = s.vca := rfl
@[simp] theorem State.chanWrite_vcf (s : State) (c : Nat) (f : Channel → Channel) : (s.chanWrite c f).vcf = s.vcf := rfl
@[simp] theorem State.chanWrite_envIn (s : State) (c : Nat) (f : Channel → Channel) : (s.chanWrite c f).envIn = s.envIn := rfl
@[simp] theorem State.chanWrite_bass (s : State) (c : Nat) (f : Channel → Channel) : (s.chanWrite c f).bass = s.bass := rfl
@[simp] theorem State.chanWrite_dyn (s : State) (c : Nat) (f : Channel → Channel) : (s.chanWrite c f).dyn = s.dyn := rfl

/-! ### Placing a command word -/

@[simp] theorem State.withFetchWord_params (s : State) (n w : Nat) : (s.withFetchWord n w).params = s.params := rfl
@[simp] theorem State.withFetchWord_inputs (s : State) (n w : Nat) : (s.withFetchWord n w).inputs = commandInput (BitVec.ofNat 32 (w % 2 ^ n)) :: s.inputs := rfl
@[simp] theorem State.withFetchWord_rdata (s : State) (n w : Nat) : (s.withFetchWord n w).rdata = s.rdata := rfl
@[simp] theorem State.withFetchWord_rstN (s : State) (n w : Nat) : (s.withFetchWord n w).rstN = true := rfl
@[simp] theorem State.withFetchWord_status (s : State) (n w : Nat) : (s.withFetchWord n w).status = s.status := rfl
@[simp] theorem State.withFetchWord_irqEn (s : State) (n w : Nat) : (s.withFetchWord n w).irqEn = s.irqEn := rfl
@[simp] theorem State.withFetchWord_evtInfo (s : State) (n w : Nat) : (s.withFetchWord n w).evtInfo = s.evtInfo := rfl
@[simp] theorem State.withFetchWord_evtData (s : State) (n w : Nat) : (s.withFetchWord n w).evtData = s.evtData := rfl
@[simp] theorem State.withFetchWord_cfg (s : State) (n w : Nat) : (s.withFetchWord n w).cfg = s.cfg := rfl
@[simp] theorem State.withFetchWord_fsHost (s : State) (n w : Nat) : (s.withFetchWord n w).fsHost = s.fsHost := rfl
@[simp] theorem State.withFetchWord_tanhIn (s : State) (n w : Nat) : (s.withFetchWord n w).tanhIn = s.tanhIn := rfl
@[simp] theorem State.withFetchWord_tanhOut (s : State) (n w : Nat) : (s.withFetchWord n w).tanhOut = s.tanhOut := rfl
@[simp] theorem State.withFetchWord_chans (s : State) (n w : Nat) : (s.withFetchWord n w).chans = s.chans := rfl
@[simp] theorem State.withFetchWord_vca (s : State) (n w : Nat) : (s.withFetchWord n w).vca = s.vca := rfl
@[simp] theorem State.withFetchWord_vcf (s : State) (n w : Nat) : (s.withFetchWord n w).vcf = s.vcf := rfl
@[simp] theorem State.withFetchWord_envIn (s : State) (n w : Nat) : (s.withFetchWord n w).envIn = s.envIn := rfl
@[simp] theorem State.withFetchWord_bass (s : State) (n w : Nat) : (s.withFetchWord n w).bass = s.bass := rfl
@[simp] theorem State.withFetchWord_dyn (s : State) (n w : Nat) : (s.withFetchWord n w).dyn = s.dyn := rfl

/-! ### Reading back -/

@[simp] theorem State.nch_setChan (s : State) (c : Nat) (ch : Channel) : (s.setChan c ch).nch = s.nch :=
  List.length_set

@[simp] theorem State.nch_chanWrite (s : State) (c : Nat) (f : Channel → Channel) : (s.chanWrite c f).nch = s.nch :=
  List.length_modify ..

@[simp] theorem State.nch_resetCore (s : State) : (resetCore s).nch = s.nch := List.length_replicate

@[simp] theorem State.nch_clearState (s : State) : (clearState s).nch = s.nch := List.length_map _

theorem State.chan_setChan_self (s : State) (c : Nat) (ch : Channel) (h : c < s.nch) :
    (s.setChan c ch).chan c = ch := by
  simp [State.chan, h]

theorem State.chan_setChan_other (s : State) (c c' : Nat) (ch : Channel) (h : c' ≠ c) :
    (s.setChan c ch).chan c' = s.chan c' := by
  simp [State.chan, List.getD_eq_getElem?_getD, List.getElem?_set_ne (Ne.symm h)]

@[simp] theorem State.setChan_setChan (s : State) (c : Nat) (a b : Channel) :
    (s.setChan c a).setChan c b = s.setChan c b := by
  simp [State.setChan]

@[simp] theorem State.chan_raiseEvent (k : EventCode) (ch off : Nat) (d : Word) (s : State) (c : Nat) :
    (raiseEvent k ch off d s).chan c = s.chan c := rfl

@[simp] theorem State.env_setEnv_self (s : State) (b : Bank) (e : EnvBank) : (s.setEnv b e).env b = e := by
  cases b <;> rfl

theorem State.env_setEnv_other (s : State) (b b' : Bank) (e : EnvBank) (h : b' ≠ b) :
    (s.setEnv b e).env b' = s.env b' := by
  cases b <;> cases b' <;> first | rfl | exact absurd rfl h

@[simp] theorem State.chan_setEnv (s : State) (b : Bank) (e : EnvBank) (c : Nat) : (s.setEnv b e).chan c = s.chan c := by
  cases b <;> rfl

end Sys2Proof.Machine
end

