-- ==== Sys2Proof/Laws/Ops.lean ====
section
/-! SUPPORT. One lemma for each shared operation that says what it can do; later proofs cite it instead of unfolding it. -/

namespace Sys2Proof.Machine

/-! ### Events and recoveries (R901, R530) -/

/-- A decimation gives a finite LAD_OUT, and reports a value exactly when that value was not finite. -/
theorem decimate_spec (p : Params) (o : Osf) (ch : Channel) :
    (isFinite32 (decimTap p o (decimHistory p o ch)) = true ∧
      decimate p o ch = ⟨{ ch with dh := decimHistory p o ch, ladOut := decimTap p o (decimHistory p o ch) }, none⟩) ∨
    (isFinite32 (decimTap p o (decimHistory p o ch)) = false ∧
      decimate p o ch = ⟨clearProcessing p ch, some (decimTap p o (decimHistory p o ch))⟩) := by
  unfold decimate
  cases h : isFinite32 (decimTap p o (decimHistory p o ch)) <;> simp [h]

theorem decimate_ladOut_finite (p : Params) (o : Osf) (ch : Channel) :
    isFinite32 (decimate p o ch).ch.ladOut = true := by
  rcases decimate_spec p o ch with ⟨h, e⟩ | ⟨-, e⟩ <;> rw [e]
  · exact h
  · rfl

/-- Putting a channel back changes that channel, and records LADDIV exactly when the recovery ran. -/
theorem finishDecim_spec (c : Nat) (d : Decimated) (s : State) :
    (d.bad = none ∧ finishDecim c d s = s.setChan c d.ch) ∨
    (∃ v, d.bad = some v ∧ finishDecim c d s = raiseEvent .laddiv c 0 v (s.setChan c d.ch)) := by
  unfold finishDecim
  cases h : d.bad with
  | none => exact .inl ⟨rfl, rfl⟩
  | some v => exact .inr ⟨v, rfl, rfl⟩

/-! ### Histories and the queue (R452, R453, R708) -/

theorem shiftIn_length (n : Nat) (x : F32) (h : List F32) (h1 : 1 ≤ n) (h2 : n ≤ h.length) :
    (shiftIn n x h).length = h.length := by
  simp [shiftIn]
  omega

/-- One shift: the new value at place 0, places below `n` moved up by one, the rest as before. -/
theorem shiftIn_getElem? (n : Nat) (x : F32) (h : List F32) (h1 : 1 ≤ n) (h2 : n ≤ h.length) (k : Nat) :
    (shiftIn n x h)[k]? = if k = 0 then some x else if k < n then h[k - 1]? else h[k]? := by
  have hl : (x :: h.take (n - 1)).length = n := by simp; omega
  rw [shiftIn, List.getElem?_append, hl]
  by_cases hk : k < n
  · rw [if_pos hk]
    cases k with
    | zero => rfl
    | succ j =>
      have : j < n - 1 := by omega
      simp [hk, this]
  · have h0 : k ≠ 0 := by omega
    rw [if_neg hk, if_neg h0, if_neg hk, List.getElem?_drop, Nat.add_sub_cancel' (by omega)]

/-- The while loop of R702: it leaves the last `depth` pairs, and what it popped last is the pair before them. -/
theorem drainQueue_spec (depth : Nat) (q : List Pair) (p : Option Pair) :
    drainQueue depth q p =
      (if q.length ≤ depth then p else q[q.length - depth - 1]?, q.drop (q.length - depth)) := by
  induction q generalizing p with
  | nil => simp [drainQueue]
  | cons x xs ih =>
    unfold drainQueue
    by_cases h : depth < xs.length + 1
    · rw [if_pos h, ih]
      have h' : ¬ (x :: xs).length ≤ depth := by simpa using h
      rw [if_neg h']
      by_cases hx : xs.length ≤ depth
      · have e : xs.length = depth := by omega
        subst e
        simp
      · rw [if_neg hx]
        have e1 : (x :: xs).length - depth = (xs.length - depth - 1 + 1) + 1 := by simp; omega
        have e2 : xs.length - depth = xs.length - depth - 1 + 1 := by omega
        rw [e1, Nat.add_sub_cancel, List.getElem?_cons_succ, List.drop_succ_cons, ← e2]
    · rw [if_neg h]
      have h' : (x :: xs).length ≤ depth := by simpa using h
      rw [if_pos h', Nat.sub_eq_zero_of_le h']
      rfl

/-- The hysteresis of R706: agreement clears the counter, disagreement counts, and one past the window flips. -/
theorem hysteresis_spec (n : Nat) (desired mode : DynMode) (hcnt : Word) :
    (desired = mode ∧ hysteresis n desired mode hcnt = (mode, 0)) ∨
    (desired ≠ mode ∧ n < (satInc hcnt).toNat ∧ hysteresis n desired mode hcnt = (desired, 0)) ∨
    (desired ≠ mode ∧ (satInc hcnt).toNat ≤ n ∧ hysteresis n desired mode hcnt = (mode, satInc hcnt)) := by
  unfold hysteresis
  by_cases h : desired = mode
  · exact .inl ⟨h, by rw [if_pos h]⟩
  · by_cases h' : n < (satInc hcnt).toNat
    · exact .inr (.inl ⟨h, h', by rw [if_neg h, if_pos h']⟩)
    · exact .inr (.inr ⟨h, by omega, by rw [if_neg h, if_neg h']⟩)

theorem satInc_toNat (n : Word) : (satInc n).toNat = min (n.toNat + 1) 0xFFFFFFFF := by
  unfold satInc
  have := n.isLt
  split
  · rename_i h
    rw [h]
    rfl
  · rename_i h
    have : n.toNat ≠ 0xFFFFFFFF := fun e => h (BitVec.eq_of_toNat_eq e)
    rw [BitVec.toNat_add]
    simp
    omega

/-! ### Step counts (R601) -/

theorem f64Floor_of_range (v : F64) (hn : isNaN64 v = false) (h1 : f64Lt v 0x3FF0000000000000#64 = false)
    (h2 : f64Lt 0x4170000000000000#64 v = false) : 1 ≤ f64Floor v ∧ f64Floor v ≤ 2 ^ 24 := by
  have k1 : key64 0x3FF0000000000000#64 = 0x3FF0000000000000 := by decide
  have k2 : key64 0x4170000000000000#64 = 0x4170000000000000 := by decide
  have n1 : isNaN64 0x3FF0000000000000#64 = false := by decide
  have n2 : isNaN64 0x4170000000000000#64 = false := by decide
  simp only [f64Lt, hn, n1, n2, k1, k2, Bool.not_false, Bool.true_and, decide_eq_false_iff_not, Int.not_lt] at h1 h2
  unfold key64 signed at h1 h2
  cases hs : neg64 v with
  | true =>
    rw [hs, if_pos rfl] at h1
    omega
  | false =>
    rw [hs] at h1 h2
    simp only [Bool.false_eq_true, if_false] at h1 h2
    have e : (mag64 v % 0x10000000000000 + 0x10000000000000) + (mag64 v / 0x10000000000000 - 1) * 0x10000000000000
        = mag64 v := by omega
    have hx1 : 1023 ≤ mag64 v / 0x10000000000000 := by omega
    have hx2 : mag64 v / 0x10000000000000 ≤ 1047 := by omega
    unfold f64Floor unpack64
    rw [if_neg (by omega), if_neg (by omega)]
    simp only [hs]
    rw [if_neg (by omega)]
    dsimp only
    generalize hx : mag64 v / 0x10000000000000 = x at *
    generalize hf : mag64 v % 0x10000000000000 = f at *
    have hf' : f < 0x10000000000000 := by omega
    rw [if_neg (by omega)]
    have et : (-((x : Int) - 1075)).toNat = 1075 - x := by omega
    rw [et]
    have top : x = 1047 → f = 0 := by omega
    clear h1 h2 e hx hf hs hn k1 k2 n1 n2
    interval_cases x <;> norm_num <;> omega

/-- steps(T) is always from 1 to 2^24 (R601, R840(b)). -/
theorem stepsOf_range (fs : F32) (t : F64) : 1 ≤ (stepsOf fs t).toNat ∧ (stepsOf fs t).toNat ≤ 2 ^ 24 := by
  unfold stepsOf
  dsimp only
  split
  · decide
  split
  · decide
  split
  · decide
  rename_i hn h1 h2
  have := f64Floor_of_range _ (by simpa using hn) (by simpa using h1) (by simpa using h2)
  rw [BitVec.toNat_ofNat]
  omega

/-! ### Register writes (R204) -/

/-- No register write moves the hysteresis mode or its counter: both are RO (R151). -/
theorem writeReg_hysteresis (v : Word) (s : State) (r : Reg) :
    (writeReg v s r).dyn.mode = s.dyn.mode ∧ (writeReg v s r).dyn.hcnt = s.dyn.hcnt := by
  cases r with
  | cfg => simp only [writeReg, writeCfg]; split <;> split <;> exact ⟨rfl, rfl⟩
  | fsHost => simp only [writeReg, writeFsHost]; split <;> exact ⟨rfl, rfl⟩
  | dynTaMs => simp only [writeReg, writeDynTaMs]; split <;> exact ⟨rfl, rfl⟩
  | dynTrMs => simp only [writeReg, writeDynTrMs]; split <;> exact ⟨rfl, rfl⟩
  | dynDepth => simp only [writeReg, writeDynDepth]; split <;> exact ⟨rfl, rfl⟩
  | env b r =>
    cases b <;> cases r <;>
      first
        | exact ⟨rfl, rfl⟩
        | (simp only [writeReg, writeEnv, writePeakLvl]; split <;> exact ⟨rfl, rfl⟩)
  | _ => exact ⟨rfl, rfl⟩

theorem writeReg_sameHost (v : Word) (s : State) (r : Reg) : SameHost s (writeReg v s r) := by
  have hc : ∀ off t, SameHost s t → SameHost s (cfgAdjusted off v t) := fun _ _ h => h
  have he : ∀ b e, SameHost s (s.setEnv b e) := fun b e => by cases b <;> exact ⟨rfl, rfl, rfl, rfl, rfl⟩
  have hw : ∀ c f, SameHost s (s.chanWrite c f) := fun c f => ⟨rfl, rfl, rfl, rfl, State.nch_chanWrite s c f⟩
  cases r with
  | cfg =>
    simp only [writeReg, writeCfg]
    split <;> split <;>
      first
        | exact ⟨rfl, rfl, rfl, rfl, rfl⟩
        | exact ⟨rfl, rfl, rfl, rfl, List.length_map _⟩
  | fsHost => simp only [writeReg, writeFsHost]; split <;> exact ⟨rfl, rfl, rfl, rfl, rfl⟩
  | env b r =>
    cases r <;>
      first
        | exact he _ _
        | exact ⟨rfl, rfl, rfl, rfl, rfl⟩
        | (simp only [writeReg, writeEnv, writePeakLvl]
           split
           · exact he _ _
           · exact hc _ _ (he _ _))
  | dynTaMs => simp only [writeReg, writeDynTaMs]; split <;> exact ⟨rfl, rfl, rfl, rfl, rfl⟩
  | dynTrMs => simp only [writeReg, writeDynTrMs]; split <;> exact ⟨rfl, rfl, rfl, rfl, rfl⟩
  | dynDepth => simp only [writeReg, writeDynDepth]; split <;> exact ⟨rfl, rfl, rfl, rfl, rfl⟩
  | ladIn c => exact hw _ _
  | ladFc c => exact hw _ _
  | ladRes c => exact hw _ _
  | _ => exact ⟨rfl, rfl, rfl, rfl, rfl⟩

end Sys2Proof.Machine
end

