-- ==== Sys2Proof/Laws/PerInstr.lean ====
section
/-! SUPPORT. The family EncodeFields: the four fields of format C in every command's word (spec/30_encoding.md R301, R304). -/

namespace Sys2Proof.Laws.EncodeFields

/-- The word of `i` carries its opcode, CH and SUB, and its RSV field is 0. -/
def Statement (i : Instr) : Prop :=
  opcOf (encode i) = i.opc ∧ chOf (encode i) = i.ch ∧ subOf (encode i) = i.sub ∧ rsvOf (encode i) = 0

theorem nop : Statement .nop := by unfold Statement; decide
theorem reset : Statement .reset := by unfold Statement; decide
theorem clrst : Statement .clrst := by unfold Statement; decide
theorem tanh : Statement .tanh := by unfold Statement; decide
theorem ups (c : BitVec 4) : Statement (.ups c) := by unfold Statement; revert c; decide
theorem lstep (c i : BitVec 4) : Statement (.lstep c i) := by unfold Statement; revert c i; decide +kernel
theorem dec (c : BitVec 4) : Statement (.dec c) := by unfold Statement; revert c; decide
theorem filt (c : BitVec 4) : Statement (.filt c) := by unfold Statement; revert c; decide
theorem vca : Statement .vca := by unfold Statement; decide
theorem vcf : Statement .vcf := by unfold Statement; decide
theorem bass : Statement .bass := by unfold Statement; decide
theorem dyn : Statement .dyn := by unfold Statement; decide

end Sys2Proof.Laws.EncodeFields
end

