-- ==== Sys2Proof/Laws/Step.lean ====
section
/-! SUPPORT. What a step, a bus access and a command can do, said once. -/

namespace Sys2Proof.Machine

/-- Everything a step that answers a next state can have done. -/
theorem step_cases {s t : State} (h : step s = .next t) :
    (s.inputs = [] ∧ t = s) ∨
    (∃ rest, s.inputs = .rstLow :: rest ∧ t = { resetCore { s with inputs := rest } with rstN := false }) ∨
    (∃ rest, s.inputs = .rstHigh :: rest ∧ t = { s with inputs := rest, rstN := true }) ∨
    (∃ a rest, s.inputs = .access a :: rest ∧ s.rstN = false ∧ t = heldAccess a { s with inputs := rest }) ∨
    (∃ a rest, s.inputs = .access a :: rest ∧ s.rstN = true ∧ busAccess a { s with inputs := rest } = .next t) := by
  unfold step serveNext at h
  split at h
  · rename_i hi
    exact .inl ⟨hi, by cases h; rfl⟩
  · rename_i x rest hi
    cases x with
    | rstLow => exact .inr (.inl ⟨rest, hi, by cases h; rfl⟩)
    | rstHigh => exact .inr (.inr (.inl ⟨rest, hi, by cases h; rfl⟩))
    | access a =>
      simp only [serve] at h
      cases hr : s.rstN with
      | false =>
        rw [hr] at h
        exact .inr (.inr (.inr (.inl ⟨a, rest, hi, rfl, by cases h; rfl⟩)))
      | true =>
        rw [hr] at h
        exact .inr (.inr (.inr (.inr ⟨a, rest, hi, rfl, h⟩)))

/-- The step that serves a bus access while RST_N is high. -/
theorem step_withAccess (s : State) (a : Access) (h : s.rstN = true) : step (s.withAccess a) = busAccess a s := by
  show (if s.rstN then busAccess a s else _) = _
  rw [if_pos h]

/-- Everything a bus access can do (R202, R204, R300). -/
theorem busAccess_cases {s t : State} {a : Access} (h : busAccess a s = .next t) :
    (∃ addr, a = .read .b32 addr ∧ addr % 4 = 0 ∧ t = busRead addr s) ∨
    (∃ w addr, a = .read w addr ∧ accessLegal w addr = false ∧ t = busErrorRead addr s) ∨
    (∃ w addr v, a = .write w addr v ∧ accessLegal w addr = false ∧ t = busErrorWrite addr v s) ∨
    (∃ addr v, a = .write .b32 addr v ∧ addr % 4 = 0 ∧ regAt (offsetOf addr) = .cmd ∧ command v s = .next t) ∨
    (∃ addr v, a = .write .b32 addr v ∧ addr % 4 = 0 ∧ regAt (offsetOf addr) ≠ .cmd ∧
      t = writeReg v s (regAt (offsetOf addr))) := by
  cases a with
  | read w addr =>
    simp only [busAccess] at h
    cases hl : accessLegal w addr with
    | true =>
      rw [hl] at h
      have := hl
      simp only [accessLegal, Bool.and_eq_true, decide_eq_true_eq] at this
      obtain ⟨rfl, h4⟩ := this
      exact .inl ⟨addr, rfl, h4, by cases h; rfl⟩
    | false =>
      rw [hl] at h
      exact .inr (.inl ⟨w, addr, rfl, hl, by cases h; rfl⟩)
  | write w addr v =>
    simp only [busAccess] at h
    cases hl : accessLegal w addr with
    | false =>
      rw [hl] at h
      exact .inr (.inr (.inl ⟨w, addr, v, rfl, hl, by cases h; rfl⟩))
    | true =>
      rw [hl, if_pos rfl] at h
      have := hl
      simp only [accessLegal, Bool.and_eq_true, decide_eq_true_eq] at this
      obtain ⟨rfl, h4⟩ := this
      by_cases hc : regAt (offsetOf addr) = .cmd
      · rw [hc] at h
        exact .inr (.inr (.inr (.inl ⟨addr, v, rfl, h4, hc, h⟩)))
      · have hb : busWrite (regAt (offsetOf addr)) v s = .next (writeReg v s (regAt (offsetOf addr))) := by
          unfold busWrite
          split
          · contradiction
          · rfl
        rw [hb] at h
        exact .inr (.inr (.inr (.inr ⟨addr, v, rfl, h4, hc, by cases h; rfl⟩)))

/-- A command that is not legal records ILLCMD and changes nothing else (R300, R306). -/
theorem exec_illegal (i : Instr) (s : State) (h : s.legal i = false) : exec i s = .next (illegalWord (encode i) s) := by
  cases i <;> simp_all [exec, execUps, execLstep, execDec, execFilt, execBass, State.legal, Instr.wellFormed]

/-! ### When the ladder has its coefficients (R502, R503, I7) -/

theorem coefOf_isSome (s : State) (fc : F32) : (coefOf (s.ladderCtx fc)).isSome = s.gresReady := by
  unfold coefOf gresOf State.gresReady State.ladderCtx
  cases cfgTres s.cfg <;> cases s.params.gres <;> simp

theorem ladderSteps_some (k : LadderCtx) (co : Coefs) (h : coefOf k = some co) (n : Nat) (ch : Channel) :
    ∃ ch', ladderSteps k n ch = some ch' := by
  induction n with
  | zero => exact ⟨ch, rfl⟩
  | succ n ih =>
    obtain ⟨c1, h1⟩ := ih
    exact ⟨ladderIterate k.p co n c1, by simp [ladderSteps, h1, ladderStep, h]⟩

/-- A ladder frame is formed whenever the coefficients are, and then decimates what N iterations left. -/
theorem ladderFrame_some (s : State) (fc : F32) (ch : Channel) (h : s.gresReady = true) :
    ∃ ch', ladderFrame (s.ladderCtx fc) ch = some (decimate s.params (osfOf s.cfg) ch') := by
  have hs : (coefOf (s.ladderCtx fc)).isSome = true := by rw [coefOf_isSome, h]
  obtain ⟨co, hco⟩ := Option.isSome_iff_exists.1 hs
  obtain ⟨ch', hc⟩ := ladderSteps_some _ co hco (osfOf s.cfg).factor (upsample s.params (osfOf s.cfg) ch)
  exact ⟨ch', by simp only [ladderFrame, State.ladderCtx] at hc ⊢; rw [hc]; rfl⟩

/-! ### Legal commands -/

theorem exec_ups (s : State) (c : BitVec 4) (h : s.legal (.ups c) = true) :
    exec (.ups c) s = .next (s.setChan c.toNat (upsample s.params (osfOf s.cfg) (s.chan c.toNat))) := by
  simp [exec, execUps, h]

theorem exec_dec (s : State) (c : BitVec 4) (h : s.legal (.dec c) = true) :
    exec (.dec c) s = .next (finishDecim c.toNat (decimate s.params (osfOf s.cfg) (s.chan c.toNat)) s) := by
  simp [exec, execDec, h]

theorem exec_lstep (s : State) (c i : BitVec 4) (h : s.legal (.lstep c i) = true) {co : Coefs}
    (hc : coefOf (s.ladderCtx (s.chan c.toNat).ladFc) = some co) :
    exec (.lstep c i) s = .next (s.setChan c.toNat (ladderIterate s.params co i.toNat (s.chan c.toNat))) := by
  simp only [exec, execLstep, h, if_true, ladderStep, hc, Option.map_some]
  rfl

theorem exec_filt (s : State) (c : BitVec 4) (h : s.legal (.filt c) = true) {d : Decimated}
    (hd : ladderFrame (s.ladderCtx (s.chan c.toNat).ladFc) (s.chan c.toNat) = some d) :
    exec (.filt c) s = .next (finishDecim c.toNat d s) := by
  simp [exec, execFilt, h, hd]

/-! ### The envelope (R602) -/

/-- A tick without an edge is the level step and the counter step on the bank as it is. -/
theorem envTick_noEdge (tr : TR) (k : EnvCtx) (e : EnvBank) (h : k.gate = e.gprev) :
    envTick tr k e = envCount tr k (envLevel k e) := by
  have : envEdge k e = e := by
    obtain ⟨p, b, gate, ac, gm, ln, fs, r0⟩ := k
    cases h
    unfold envEdge
    simp
  rw [envTick, this]

/-- What the edge step can do (R603): a rising edge enters ATTACK, a falling edge in gate mode enters NOTE_END from the modes
it ends, and every other tick only records GATE. -/
theorem envEdge_cases (k : EnvCtx) (e : EnvBank) :
    (k.gate = true ∧ e.gprev = false ∧ envEdge k e = enterAttack k { e with gprev := true }) ∨
    (k.gate = false ∧ e.gprev = true ∧ k.gmode = true ∧ e.mode.gated = true ∧
      envEdge k e = enterNoteEnd k { e with gprev := false }) ∨
    (¬ (k.gate = true ∧ e.gprev = false) ∧ ¬ (k.gate = false ∧ e.gprev = true ∧ k.gmode = true ∧ e.mode.gated = true) ∧
      envEdge k e = { e with gprev := k.gate }) := by
  unfold envEdge
  cases hg : k.gate <;> cases hp : e.gprev <;> cases hm : k.gmode <;> cases hq : e.mode.gated <;> simp

/-- The counter step: SILENCE does not count, a step up to the target only counts, a step past it advances. -/
theorem envCount_spec (tr : TR) (k : EnvCtx) (e : EnvBank) :
    (e.mode = .silence ∧ envCount tr k e = e) ∨
    (e.mode ≠ .silence ∧ (satInc e.step).toNat ≤ e.target.toNat ∧ envCount tr k e = { e with step := satInc e.step }) ∨
    (e.mode ≠ .silence ∧ e.target.toNat < (satInc e.step).toNat ∧
      envCount tr k e = envAdvance tr k { e with step := satInc e.step }) := by
  unfold envCount
  by_cases hm : e.mode = .silence
  · exact .inl ⟨hm, if_pos hm⟩
  · rw [if_neg hm]
    by_cases hd : e.target.toNat < (satInc e.step).toNat
    · exact .inr (.inr ⟨hm, hd, if_pos hd⟩)
    · exact .inr (.inl ⟨hm, by omega, if_neg hd⟩)

/-- An entered mode starts at step 0 with a target of at least 1, so its first counter step only counts (R610). -/
theorem envCount_entered (tr : TR) (k : EnvCtx) (e : EnvBank) (hm : e.mode ≠ .silence) (hs : e.step = 0) (fs : F32) (t : F64)
    (ht : e.target = stepsOf fs t) : envCount tr k e = { e with step := 1 } := by
  have hr := (stepsOf_range fs t).1
  have h1 : satInc e.step = 1 := by rw [hs]; decide
  rcases envCount_spec tr k e with ⟨h, -⟩ | ⟨-, -, h⟩ | ⟨-, h, -⟩
  · exact absurd h hm
  · rw [h, h1]
  · rw [h1, ht] at h
    simp at h
    omega

/-! ### Dynamics (R720) -/

/-- The failure handling: with finite outputs the tick stands, otherwise the hard recovery runs on it and DYNRST is
recorded. -/
theorem dynTick_cases (tr : TR) (s : State) (d : DynUnit)
    (hd : d = dynCompute tr { p := s.params, sc := cfgSc s.cfg, fs := s.fsHost } s.dyn) :
    (isFinite32 d.outL = true ∧ isFinite32 d.outR = true ∧ dynTick tr s = { s with dyn := d }) ∨
    ((isFinite32 d.outL = false ∨ isFinite32 d.outR = false) ∧
      dynTick tr s = raiseEvent .dynrst 0 0 0 { s with dyn := dynRecover d }) := by
  subst hd
  unfold dynTick dynFailed
  generalize dynCompute tr { p := s.params, sc := cfgSc s.cfg, fs := s.fsHost } s.dyn = d
  cases hL : isFinite32 d.outL <;> cases hR : isFinite32 d.outR <;> simp [hL, hR]

end Sys2Proof.Machine
end

