-- ==== Sys2Proof/Tests/Slice0.lean ====
section
/-! SUPPORT. Tests of the model: expected values come from the worked examples and vectors of the spec (named beside each),
and the last sections show, for every obligation with hypotheses, a state and operands that meet them. -/

namespace Sys2Proof.Machine.Tests

/-! ### Helpers -/

/-- The state of a next outcome. -/
def nextState : Host.Outcome State Fault Refusal → Option State
  | .next s => some s
  | .fault _ => none
  | .refused _ => none

/-- What register `r` reads after the outcome `o`. -/
def reads (o : Host.Outcome State Fault Refusal) (r : Reg) : Option Word := (nextState o).map (readReg · r)

/-- The reset state with CFG written to `v` (no history to clear). -/
def cfgState (v : Word) : State := { State.reset with cfg := v }

/-- The reset state at factor 2 with channel 0 as given. -/
def chanState (ch : Channel) : State := (cfgState 0x11#32).setChan 0 ch

def ch0 : Channel := resetChannel nominalParams

/-- V-ENV-1's bank (R620): T_ATT of 4 steps at FS_HOST = 65536. -/
def envState : State :=
  { State.reset with
    fsHost := 0x47800000#32, envIn := 1
    vca := { State.reset.vca with tAtt := 0x38800000#32 }, vcf := { State.reset.vcf with tAtt := 0x38800000#32 } }

def bankAttack : EnvBank :=
  { envState.vca with
    mode := .attack, gprev := true, step := 1, target := 4, start := 0x38D1B717#32, current := 0x38D1B717#32 }

/-- A TR for tests of the procedures that take one: `exp` is the value whose AT is R700's 0x3D47528F, `log10` is −1.3. -/
def trTest : TR :=
  { exp := fun _ => f64Sub 0x3FF0000000000000#64 (widen 0x3D47528F#32)
    ln := fun x => x
    log10 := fun _ => 0xBFF4CCCCCCCCCCCD#64
    pow10 := fun _ => 0x3FE0000000000000#64 }

/-- A TR whose `log10` is 0, so that a peak is at 0 dB, and whose coefficients are 1.0. -/
def trLoud : TR := { trTest with exp := fun _ => 0, log10 := fun _ => 0 }

/-! ### Decoding (R301, R304): words written field by field -/

theorem test_decode_nop : decode (0b00000000#8 ++ 0#4 ++ 0#4 ++ 0#16 : BitVec 32) = .ok .nop := by decide
theorem test_decode_reset : decode (0b00000001#8 ++ 0#4 ++ 0#4 ++ 0#16 : BitVec 32) = .ok .reset := by decide
theorem test_decode_clrst : decode (0b00000010#8 ++ 0#4 ++ 0#4 ++ 0#16 : BitVec 32) = .ok .clrst := by decide
theorem test_decode_tanh : decode (0b00010000#8 ++ 0#4 ++ 0#4 ++ 0#16 : BitVec 32) = .ok .tanh := by decide
theorem test_decode_ups : decode (0b00100000#8 ++ 0b1011#4 ++ 0#4 ++ 0#16 : BitVec 32) = .ok (.ups 11) := by decide
theorem test_decode_lstep : decode (0b00100001#8 ++ 0b0001#4 ++ 0b0101#4 ++ 0#16 : BitVec 32) = .ok (.lstep 1 5) := by
  decide
theorem test_decode_dec : decode (0b00100010#8 ++ 0b0001#4 ++ 0#4 ++ 0#16 : BitVec 32) = .ok (.dec 1) := by decide
theorem test_decode_filt : decode (0b00100011#8 ++ 0b0001#4 ++ 0#4 ++ 0#16 : BitVec 32) = .ok (.filt 1) := by decide
theorem test_decode_vca : decode (0b00110000#8 ++ 0#4 ++ 0#4 ++ 0#16 : BitVec 32) = .ok .vca := by decide
theorem test_decode_vcf : decode (0b00110001#8 ++ 0#4 ++ 0#4 ++ 0#16 : BitVec 32) = .ok .vcf := by decide
theorem test_decode_bass : decode (0b00110010#8 ++ 0#4 ++ 0#4 ++ 0#16 : BitVec 32) = .ok .bass := by decide
theorem test_decode_dyn : decode (0b01000000#8 ++ 0#4 ++ 0#4 ++ 0#16 : BitVec 32) = .ok .dyn := by decide

/-- The rejections of R306, each by its name. -/
theorem test_decode_rejects :
    decode 0x03000000#32 = .error .reservedOpcode ∧ decode 0xFF000000#32 = .error .reservedOpcode ∧
    decode 0x10000001#32 = .error .rsvNonzero ∧ decode 0x00100000#32 = .error .chNonzero ∧
    decode 0x00010000#32 = .error .subNonzero ∧ decode 0x20110000#32 = .error .subNonzero ∧
    decodeBytes [0x00#8, 0x00#8, 0x10#8] = .error .truncated := by decide

/-- The least significant byte is the first (R201), and decodeTableWord counts bits from it. -/
theorem test_decode_bytes :
    decodeBytes [0x00#8, 0x00#8, 0x15#8, 0x21#8, 0xAA#8] = .ok (.lstep 1 5, [0xAA#8]) ∧
    decodeTableWord 32 0x21150000 = some (.lstep 1 5) := by decide

/-! ### Well-formedness (R305): each check refuses an ill-formed term -/

theorem test_wellFormed_refuses :
    Instr.wellFormed 2 8 (.ups 2) = false ∧ Instr.wellFormed 2 8 (.dec 15) = false ∧
    Instr.wellFormed 2 8 (.filt 2) = false ∧ Instr.wellFormed 2 4 (.lstep 0 5) = false ∧
    Instr.wellFormed 2 8 (.lstep 2 0) = false ∧ Instr.wellFormed 0 8 .bass = false := by decide

/-- R305: `LSTEP c, 5` is legal at 8× and illegal at 4×. -/
theorem test_wellFormed_accepts : Instr.wellFormed 2 8 (.lstep 1 5) = true ∧ Instr.wellFormed 1 2 .bass = true := by
  decide

/-! ### Parameters (R10): each constant is the pattern nearest its decimal -/

/-- The pattern is within half a last place of `num / den`. -/
def nearTo (v : Fp) (num den : Nat) : Bool :=
  match v with
  | .fin _ m e => decide (e ≤ 0) && decide (2 * ((m * den : Int) - num * 2 ^ (-e).toNat).natAbs ≤ den)
  | _ => false

theorem test_binary64_literals :
    nearTo (unpack64 nominalParams.tanhBound) 497 100 = true ∧
    nearTo (unpack64 nominalParams.firCutoff) 9 10 = true ∧
    nearTo (unpack64 nominalParams.gc0) 8116984 10000000000 = true ∧
    nearTo (unpack64 nominalParams.gc1) 9724111 10000000 = true ∧
    nearTo (unpack64 nominalParams.gc2) 5077766 10000000 = true ∧
    nearTo (unpack64 nominalParams.gc3) 1534058 10000000 = true ∧
    nearTo (unpack64 nominalParams.gresFixed) 115 100 = true ∧
    nearTo (unpack64 nominalParams.hystT) 3 10000 = true ∧
    nearTo (unpack64 nominalParams.dynK) 22 10 = true ∧ nearTo (unpack64 nominalParams.dynRef) 5 1 = true := by
  decide +kernel

theorem test_binary32_literals :
    nearTo (unpack32 nominalParams.vt2) 52 1000 = true ∧ nearTo (unpack32 nominalParams.envMin) 1 10000 = true ∧
    nearTo (unpack32 nominalParams.rv.vcf.tDec) 11 10 = true ∧ nearTo (unpack32 Config.fsMin) 44100 1 = true ∧
    nearTo (unpack32 Config.fsMax) 768000 1 = true := by decide +kernel

theorem test_params_ok : paramsOk nominalParams = true := by decide +kernel

/-! ### Reset (R1000) -/

theorem test_reset_registers :
    readReg State.reset .cfg = 0x00000012#32 ∧ readReg State.reset .fsHost = 0x472C4400#32 ∧
    readReg State.reset (.env .vca .estat) = 0x00000004#32 ∧ readReg State.reset (.env .vcf .tDec) = 0x3F8CCCCD#32 ∧
    readReg State.reset .dynGain = 0x3F800000#32 ∧ State.reset.irq = false := by decide

/-! ### One step of each command -/

/-- R800: a NOP leaves STATUS and every input as they were. -/
theorem test_nop : reads (step (State.reset.withFetchWord 32 0x00000000)) .status = some 0 := by decide

/-- R810: after any history, RESET makes CFG read 0x12 and VCA.ESTAT 4. -/
theorem test_reset :
    reads (exec .reset { envState with cfg := 0xF3, status := 5, vca := bankAttack }) .cfg = some 0x12#32 ∧
    reads (exec .reset { envState with cfg := 0xF3, status := 5, vca := bankAttack }) (.env .vca .estat) = some 4#32 := by
  decide

/-- R820: CLRST clears LSTATE and keeps CFG. -/
theorem test_clrst :
    reads (exec .clrst (chanState { ch0 with lstate := { LadderState.zero with yd := 7 } })) (.lstate 0 3) = some 0 ∧
    reads (exec .clrst (chanState { ch0 with ladFc := 9 })) (.ladFc 0) = some 9 ∧
    reads (exec .clrst (cfgState 0x11)) .cfg = some 0x11 := by decide

/-- R410's worked example. -/
theorem test_tanh_half : reads (exec .tanh { State.reset with tanhIn := 0x3F000000#32 }) .tanhOut = some 0x3EEC9A9F#32 := by
  decide +kernel

/-- R403(c): the largest operand of the rational form. -/
theorem test_tanh_bound : reads (exec .tanh { State.reset with tanhIn := 0x409F0A3D#32 }) .tanhOut = some 0x3F7FFFF6#32 := by
  decide +kernel

/-- R452's worked example, and element N keeps its value. -/
theorem test_ups :
    reads (exec (.ups 0) (chanState { ch0 with ladIn := 0x3C23D70A#32, osbuf := Vector.replicate 8 5 })) (.osbuf 0 1) =
      some 0x3C23D70A#32 ∧
    reads (exec (.ups 0) (chanState { ch0 with ladIn := 0x3C23D70A#32, osbuf := Vector.replicate 8 5 })) (.osbuf 0 2) =
      some 5 := by decide +kernel

/-- R453's worked example. -/
theorem test_dec :
    reads (exec (.dec 0) (chanState { ch0 with osbuf := #v[0x345D00E6#32, 0x3582A740#32, 0, 0, 0, 0, 0, 0] }))
      (.ladOut 0) = some 0x351E475D#32 := by decide +kernel

/-- R453, R530: an infinite sum runs the recovery and records LADDIV with its bits. -/
theorem test_dec_recovers :
    (nextState (exec (.dec 1) ((cfgState 0x11).setChan 1 { ch0 with osbuf := Vector.replicate 8 0x7F800000#32, ladOut := 3 }))).map
      (fun t => [readReg t (.ladOut 1), readReg t (.osbuf 1 0), t.status, t.evtInfo, t.evtData]) =
      some [0, 0, 0x00020000#32, 0x00000104#32, 0x7F800000#32] := by decide +kernel

/-- R510's worked example. -/
theorem test_lstep :
    (nextState (exec (.lstep 0 0) (chanState { ch0 with
      ladFc := 0x447A0000#32, osbuf := #v[0x3C23D70A#32, 0, 0, 0, 0, 0, 0, 0] }))).map
      (fun t => ((t.chan 0).lstate, (t.chan 0).os 0)) =
      some ({ ya := 0x3A2EF5DC#32, wa := 0x3C524702#32, yb := 0x383D1F6A#32, wb := 0x3A634F96#32, yc := 0x364C714D#32
              wc := 0x3875B969#32, yd := 0x345D00E6#32, ydpp := 0 }, 0x345D00E6#32) := by decide +kernel

/-- R305: an LSTEP phase at or above N does not run and records its word. -/
theorem test_lstep_illegal :
    (nextState (exec (.lstep 0 2) (chanState ch0))).map (fun t => (t.evtInfo, t.evtData, t.chans)) =
      some (1, 0x21020000#32, (chanState ch0).chans) := by decide

/-- R520's worked example. -/
theorem test_filt :
    reads (exec (.filt 0) (chanState { ch0 with ladIn := 0x3C23D70A#32, ladFc := 0x447A0000#32 })) (.ladOut 0) =
      some 0x351E475D#32 := by decide +kernel

/-- R620's worked example, first tick. -/
theorem test_vca_first_tick :
    (nextState (exec .vca envState)).map (fun t => [readReg t (.env .vca .step), readReg t (.env .vca .target),
      readReg t (.env .vca .level), readReg t (.env .vca .estat)]) = some [1, 4, 0x38D1B717#32, 0x20] := by
  decide +kernel

/-- R620's worked example, second tick. -/
theorem test_vca_second_tick :
    reads (exec .vca { envState with vca := bankAttack }) (.env .vca .level) = some 0x3E8009D5#32 := by decide +kernel

/-- R609: an accented VCF decay above the floor is not ended by its counter. -/
theorem test_vcf_decay_held :
    (nextState (exec .vcf { envState with vcf := { bankAttack with
      mode := .decay, acc := true, step := 4, current := 0x3F800000#32, factor := 0x3F000000#32 } })).map
      (fun t => (t.vcf.mode, t.vcf.step, t.vcf.level)) = some (.decay, 5, 0x3F000000#32) := by decide +kernel

/-- R640's worked example (V-BASS-1, first frame). -/
theorem test_bass :
    (nextState (exec .bass { envState with
      cfg := 0x11
      bass := { cutBase := 0x447A0000#32, envmod := 0x447A0000#32, vcfScale := 0x3F800000#32, vcfBias := 0xBF000000#32
                cutMin := 0x41A00000#32, cutMax := 0x469C4000#32, fcEff := 0, bassOut := 0 }
      chans := [{ ch0 with ladIn := 0x3C23D70A#32 }, ch0] })).map
      (fun t => [t.vcf.level, t.bass.fcEff, (t.chan 0).ladOut, t.bass.bassOut]) =
      some [0x38D1B717#32, 0x43FA0CCC#32, 0x3221AD2A#32, 0x2B847201#32] := by decide +kernel

/-- R702's worked example (V-DYN-1, first tick), with AT supplied by the test's TR. -/
theorem test_dyn_first_tick :
    (fun t : State => ([t.dyn.peak, t.dyn.ctl, t.dyn.gain, t.dyn.outL, t.dyn.outR], t.dyn.queue.length))
      (dynTick trTest { State.reset with dyn := { State.reset.dyn with
        taMs := 0x3F800000#32, trMs := 0x42C80000#32, ltDb := 0xC0C00000#32, depth := 2
        inL := 0x40A00000#32, inR := 0x40A00000#32 } }) =
      ([0x3E792733#32, 0x3F800000#32, 0x3F800000#32, 0, 0], 1) := by decide +kernel

/-- R720: an infinite output runs the hard recovery; mode, counter and queue are kept. -/
theorem test_dyn_recovers :
    (fun t : State => ([t.dyn.peak, t.dyn.gain, t.dyn.ctl, t.dyn.outL, t.dyn.outR, t.dyn.hcnt, t.status, t.evtInfo],
        t.dyn.mode))
      (dynTick trLoud { State.reset with dyn := { State.reset.dyn with
        taMs := 0x3F800000#32, trMs := 0x3F800000#32, ltDb := 0xC0C00000#32, inR := 0x7F800000#32 } }) =
      ([0x3F800000#32, 0x3F800000#32, 0x3F800000#32, 0, 0, 1, 8, 5], .release) := by decide +kernel

/-! ### Accesses -/

/-- V-WARL: CFG = 0x10 stores 0x12 and records CFGADJ. -/
theorem test_cfg_legalised :
    (nextState (step (State.reset.withAccess (.write .b32 0x018 0x10#32)))).map
      (fun t => [t.cfg, t.status, t.evtInfo, t.evtData]) = some [0x12#32, 4, 0x00018003#32, 0x10#32] := by decide

/-- R202: a misaligned 32-bit write is dropped and recorded. -/
theorem test_misaligned_write :
    (nextState (step (State.reset.withAccess (.write .b32 0x022 0x3F800000#32)))).map
      (fun t => [t.tanhIn, t.status, t.evtInfo, t.evtData]) = some [0, 2, 0x00022002#32, 0x3F800000#32] := by decide

/-- R901: writing 1e9 to FS_HOST stores 768000.0. -/
theorem test_fs_clamped :
    reads (step (State.reset.withAccess (.write .b32 0x01C 0x4E6E6B28#32))) .fsHost = some 0x493B8000#32 := by decide

/-- R1001: while RST_N is low a CMD write starts nothing and a read returns 0. -/
theorem test_held :
    (nextState (step ({ State.reset with rstN := false }.withAccess (.read .b32 0x014)))).map (·.rdata) = some 0 := by
  decide

/-! ### Witnesses: states and operands that meet the hypotheses of the obligations

Each is named after its obligation. Where a statement has several clauses, every clause has its case, at the ends of its
range. -/

theorem witness_StepRunsTheCommandWord :
    decode 0x10000000#32 = .ok .tanh ∧
    ({ State.reset with inputs := [commandInput 0x10000000#32] } : State).rstN = true ∧ State.reset.inputs = [] := by
  decide

/-- The codes 1, 2 and 3. -/
theorem witness_OsfSelects :
    OsfSelects (cfgState 0x11#32) 2 nominalParams.kup2 nominalParams.kdn2 ∧
    OsfSelects (cfgState 0x12#32) 4 nominalParams.kup4 nominalParams.kdn4 ∧
    OsfSelects (cfgState 0x13#32) 8 nominalParams.kup8 nominalParams.kdn8 := by
  unfold OsfSelects
  decide

theorem witness_CmdWriteRunsOrRaises :
    State.reset.rstN = true ∧ offsetOf 0x5000 = 0x000 ∧ LegalWord 0x21130000#32 State.reset.nch State.reset.factor ∧
    ¬ LegalWord 0x21140000#32 State.reset.nch State.reset.factor ∧
    ¬ LegalWord 0x20200000#32 State.reset.nch State.reset.factor := by
  refine ⟨by decide, by decide, ?_, ?_, ?_⟩ <;> (unfold LegalWord; decide)

theorem witness_BusErrorAccessEffects :
    State.reset.rstN = true ∧ (Width.b8 ≠ .b32 ∨ 0x000 % 4 ≠ 0) ∧ (Width.b32 ≠ .b32 ∨ 0xFFF % 4 ≠ 0) := by decide

theorem witness_RegisterMapOfTheWindow :
    (0x9FC < 0x1000 ∧ 0x9FC % 4 = 0 ∧ Reg.lstate 15 7 ≠ .reserved ∧ regAt 0x9FC = .lstate 15 7) ∧
    0x1014 % 0x1000 = 0x014 % 0x1000 := by decide

/-- The last channel, the first absent one, an RO register and a reserved offset. -/
theorem witness_AccessRulesOfAllRegisters :
    State.reset.rstN = true ∧ isZeroReg State.reset.nch (regAt 0x000) = true ∧
    isZeroReg State.reset.nch (regAt 0x120) = true ∧ isZeroReg State.reset.nch (regAt 0xFFC) = true ∧
    isIgnoredReg State.reset.nch (regAt 0x120) = true ∧ isIgnoredReg State.reset.nch (regAt 0x014) = true ∧
    isIgnoredReg State.reset.nch (regAt 0xFFC) = true ∧ isPlainReg State.reset.nch (regAt 0x110) = true ∧
    isPlainReg State.reset.nch (regAt 0x314) = true := by decide

theorem witness_StatusIrqEnAndEnvInWrites : State.reset.rstN = true ∧ State.reset.nch ≤ 16 := by decide

/-- The OSF code changes for v = 1, and stays for v = 0 and v = 0x12. -/
theorem witness_CfgWriteAndFactorChange :
    State.reset.rstN = true ∧ (cfgStored nominalParams 1).toNat % 4 ≠ State.reset.cfg.toNat % 4 ∧
    (cfgStored nominalParams 0).toNat % 4 = State.reset.cfg.toNat % 4 ∧
    (cfgStored nominalParams 0x12).toNat % 4 = State.reset.cfg.toNat % 4 := by decide

/-- The value of a positive normal binary32 pattern from its fields. -/
theorem val32_of_unpack {x : F32} {m : Nat} {e : Int} (h : unpack32 x = .fin false m e) :
    val32 x = (m : ℚ) * (2 : ℚ) ^ e := by
  rw [val32, h]
  simp [Fp.val]

/-- The clauses of R115 at their boundaries: the pattern below 44100.0, 44100.0, 768000.0, the pattern above it, a NaN and
both infinities. -/
theorem witness_FsHostWriteRule :
    IsNaN 0x7FC00000#32 ∧ (isFinite32 0x472C43FF#32 = true ∧ val32 0x472C43FF#32 < 44100) ∧
    (isFinite32 0x493B8001#32 = true ∧ 768000 < val32 0x493B8001#32) ∧
    (isFinite32 0x472C4400#32 = true ∧ 44100 ≤ val32 0x472C4400#32 ∧ val32 0x472C4400#32 ≤ 768000) ∧
    (isFinite32 0x493B8000#32 = true ∧ 44100 ≤ val32 0x493B8000#32 ∧ val32 0x493B8000#32 ≤ 768000) := by
  rw [val32_of_unpack (x := 0x472C43FF#32) (m := 11289599) (e := -8) (by decide),
    val32_of_unpack (x := 0x493B8001#32) (m := 12288001) (e := -4) (by decide),
    val32_of_unpack (x := 0x472C4400#32) (m := 11289600) (e := -8) (by decide),
    val32_of_unpack (x := 0x493B8000#32) (m := 12288000) (e := -4) (by decide)]
  refine ⟨by unfold IsNaN; decide, ⟨by decide, ?_⟩, ⟨by decide, ?_⟩, ⟨by decide, ?_, ?_⟩, by decide, ?_, ?_⟩ <;> norm_num

/-- PEAK_LVL at P_ENV_MIN and one pattern below; times +0, −0 and a NaN; depths P_LA_MAX and P_LA_MAX + 1. -/
theorem witness_LegalizingWrites :
    State.reset.rstN = true ∧ paramsOk State.reset.params = true ∧
    (isFinite32 0x38D1B717#32 = true ∧ val32 State.reset.params.envMin ≤ val32 0x38D1B717#32) ∧
    ¬ (isFinite32 0x38D1B716#32 = true ∧ val32 State.reset.params.envMin ≤ val32 0x38D1B716#32) ∧
    (¬ IsNaN 0x00000000#32 ∧ (0x00000000#32).getLsbD 31 = false) ∧
    (IsNaN 0x80000000#32 ∨ (0x80000000#32).getLsbD 31 = true) ∧ IsNaN 0x7F800001#32 ∧
    (1024#32).toNat ≤ State.reset.params.laMax.toNat ∧ State.reset.params.laMax.toNat < (1025#32).toNat := by
  have e : State.reset.params.envMin = 0x38D1B717#32 := rfl
  rw [e, val32_of_unpack (x := 0x38D1B717#32) (m := 13743895) (e := -37) (by decide),
    val32_of_unpack (x := 0x38D1B716#32) (m := 13743894) (e := -37) (by decide)]
  unfold IsNaN
  refine ⟨rfl, test_params_ok, ⟨by decide, le_refl _⟩, ?_, by decide, by decide, by decide, by decide, by decide⟩
  rintro ⟨-, h⟩
  norm_num at h

theorem witness_IdRegisterConstant : State.reset.rstN = true := rfl

theorem witness_IdempotentAccesses : State.reset.rstN = true ∧ regAt (0x018 % 0x1000) ≠ .cmd := by decide

/-- A set STATUS bit is cleared by each of the three causes. -/
theorem witness_StatusBitsAreSticky :
    (∀ x, x = Input.access (.write .b32 0x004 1) ∨ x = .access (.write .b32 0x000 0x01000000#32) ∨ x = .rstLow →
      ∃ t, step { State.reset with status := 1, inputs := [x] } = .next t ∧
        (1#32 : Word).getLsbD 0 = true ∧ t.status.getLsbD 0 = false) := by
  rintro x (rfl | rfl | rfl) <;> exact ⟨_, rfl, by decide, by decide⟩

theorem witness_EveryEventHasItsCause :
    State.reset.rstN = true ∧ paramsOk State.reset.params = true ∧
    ∃ t, step (State.reset.withAccess (.write .b32 0x318 1025)) = .next t ∧ t.evtInfo = 0x00318003#32 :=
  ⟨rfl, test_params_ok, _, rfl, by decide⟩

theorem witness_ResetInputHoldsTheCore :
    ({ State.reset with inputs := [.rstLow] } : State).inputs = .rstLow :: [] ∧
    ({ State.reset with rstN := false, inputs := [.access (.read .b32 0)] } : State).rstN = false ∧
    ({ State.reset with rstN := false, inputs := [.rstHigh] } : State).inputs = .rstHigh :: [] := by decide

theorem witness_NopCommand :
    State.reset.rstN = true ∧ Word.field 0x00F00000#32 31 24 = 0x00 ∧ (0x00F00000#32 : Word) ≠ 0 := by decide

/-- Every opcode of the table has a word R305 does not admit: its RSV field is not 0. -/
theorem witness_IllegalFormsRaise :
    ∀ opc ∈ allOpcodes, Word.field (BitVec.ofNat 32 (opc * 2 ^ 24 + 1)) 31 24 = opc ∧
      ¬ LegalWord (BitVec.ofNat 32 (opc * 2 ^ 24 + 1)) State.reset.nch State.reset.factor := by
  have h : ∀ opc ∈ allOpcodes, Word.field (BitVec.ofNat 32 (opc * 2 ^ 24 + 1)) 31 24 = opc ∧
      Word.field (BitVec.ofNat 32 (opc * 2 ^ 24 + 1)) 15 0 ≠ 0 := by decide
  exact fun opc ho => ⟨(h opc ho).1, fun hl => (h opc ho).2 hl.2.1⟩

theorem witness_AddSubMulRoundToNearest :
    isFinite32 0x7F7FFFFF#32 = true ∧ isFinite32 0x80000001#32 = true ∧ isFinite64 0x7FEFFFFFFFFFFFFF#64 = true := by
  decide

/-- An infinity beside a finite value, infinities of one sign and of both, a sum and a difference that are zero, `∞ · 0`, and
an infinity times a value that is not zero. -/
theorem witness_SpecialSumsAndProducts :
    (isNaN32 0xFF800000#32 = false ∧ IsSigned binary32.inf 0xFF800000#32 ∧ ¬ IsSigned binary32.inf 0x80000001#32) ∧
    (IsSigned binary64.inf 0x7FF0000000000000#64 ∧ IsSigned binary64.inf 0xFFF0000000000000#64) ∧
    (isFinite32 0x80000000#32 = true ∧ val32 0x80000000#32 + val32 0x80000000#32 = 0 ∧
      val32 0x80000000#32 - val32 0x80000000#32 = 0) ∧
    IsSigned 0 0x80000000#32 ∧ ¬ IsSigned 0 0x80000001#32 ∧ isNaN64 0x8000000000000000#64 = false := by
  have z : val32 0x80000000#32 = 0 := by
    rw [val32, show unpack32 0x80000000#32 = .fin true 0 (-149) from by decide]
    norm_num [Fp.val]
  unfold IsSigned binary32 binary64
  refine ⟨by decide, by decide, ⟨by decide, ?_, ?_⟩, by decide, by decide, by decide⟩ <;> rw [z] <;> norm_num

/-- `∞ / ∞`, `0 / 0`, an infinity over a finite value, a finite value over a zero and over an infinity, and the converted
infinities. -/
theorem witness_SpecialQuotients :
    (IsSigned binary64.inf 0xFFF0000000000000#64 ∧ ¬ IsSigned binary64.inf 0x0000000000000000#64) ∧
    (binary64.finite 0x8000000000000001#64 = true ∧ ¬ IsSigned 0 0x8000000000000001#64 ∧
      IsSigned 0 0x8000000000000000#64 ∧ binary64.nan 0x8000000000000000#64 = false) ∧
    IsSigned binary32.inf 0xFF800000#32 := by
  unfold IsSigned binary32 binary64
  decide

/-- A divisor that is not zero, a zero divisor under a nonzero and under a zero dividend. -/
theorem witness_DivAndNarrowRoundToNearest :
    (isFinite32 0x3F800000#32 = true ∧ val32 0x3F800000#32 ≠ 0) ∧
    (isFinite32 0x80000000#32 = true ∧ val32 0x80000000#32 = 0) ∧
    (isFinite64 0x3FF0000000000000#64 = true ∧ val64 0x3FF0000000000000#64 ≠ 0) := by
  refine ⟨⟨by decide, ?_⟩, ⟨by decide, ?_⟩, by decide, ?_⟩
  · rw [val32_of_unpack (m := 8388608) (e := -23) (by decide)]
    norm_num
  · rw [val32, show unpack32 0x80000000#32 = .fin true 0 (-149) from by decide]
    norm_num [Fp.val]
  · rw [val64, show unpack64 0x3FF0000000000000#64 = .fin false 4503599627370496 (-52) from by decide]
    norm_num [Fp.val]

theorem witness_WideningIsExact :
    isFinite32 0x00000001#32 = true ∧ ¬ IsNaN 0x7F800000#32 ∧ IsNaN 0x7F800001#32 := by unfold IsNaN; decide

/-- The ends 0 and 2^24 of the exact integers, and floors of −0 and of the least value above 0. -/
theorem witness_WideningIsExact_integers :
    f32OfNat 0 = 0x00000000#32 ∧ f32OfNat (2 ^ 24) = 0x4B800000#32 ∧ f64OfNat (2 ^ 53) = 0x4340000000000000#64 ∧
    (isFinite64 0x8000000000000000#64 = true ∧ 0 ≤ val64 0x8000000000000000#64) ∧
    (isFinite64 0x0000000000000001#64 = true ∧ 0 ≤ val64 0x0000000000000001#64) := by
  refine ⟨by decide +kernel, by decide +kernel, by decide +kernel, ⟨by decide, ?_⟩, by decide, ?_⟩
  · rw [val64, show unpack64 0x8000000000000000#64 = .fin true 0 (-1074) from by decide]
    norm_num [Fp.val]
  · rw [val64, show unpack64 0x0000000000000001#64 = .fin false 1 (-1074) from by decide]
    norm_num [Fp.val]

/-- A NaN, two finite values in order and out of order, and both infinities. -/
theorem witness_ComparisonsFollowTheRealOrder :
    binary32.nan 0xFFC00000#32 = true ∧ binary32.finite 0xBF800000#32 = true ∧ binary32.finite 0x80000000#32 = true ∧
    f32Lt 0xBF800000#32 0x80000000#32 = true ∧ f32Lt 0x00000000#32 0x80000000#32 = false ∧
    f32Lt 0x7F7FFFFF#32 binary32.inf = true ∧ f32Le (withSign true binary32.inf) 0xFF7FFFFF#32 = true ∧
    binary64.nan 0xFFF8000000000000#64 = true ∧ f64Lt (withSign true binary64.inf) 0x8000000000000000#64 = true := by
  unfold binary32 binary64
  decide

theorem witness_NanResultsAreQuiet :
    (IsNaN 0xFFC00001#32 ∨ IsNaN 0x00000000#32) ∧ isNaN64 0x7FF0000000000001#64 = true := by unfold IsNaN; decide

/-- A NaN, the operand below the bound, the operand at the bound, and the infinities. -/
theorem witness_TanhCommand :
    IsNaN 0x7FC00000#32 ∧
    (¬ IsNaN 0x409F0A3D#32 ∧ f64Lt (f64Abs (widen 0x409F0A3D#32)) nominalParams.tanhBound = true) ∧
    (¬ IsNaN 0x409F0A3E#32 ∧ f64Lt (f64Abs (widen 0x409F0A3E#32)) nominalParams.tanhBound = false) := by
  unfold IsNaN
  decide +kernel

theorem witness_TanhIsOdd : ¬ IsNaN 0x80000000#32 ∧ ¬ IsNaN 0x7F800000#32 := by unfold IsNaN; decide

theorem witness_TanhStaysFinite :
    nominalParams.tanhBound = 0x4013E147AE147AE1#64 ∧ ¬ IsNaN 0x7F7FFFFF#32 ∧
    ¬ IsNaN (f32Div 0x7F7FFFFF#32 nominalParams.vt2) := by unfold IsNaN; decide +kernel

theorem witness_UpsCommand :
    State.reset.legal (.ups 1) = true ∧ 1 ≤ State.reset.params.q ∧
    (State.reset.chan 1).uh.length = State.reset.params.q := by decide

theorem witness_DecCommand :
    State.reset.legal (.dec 1) = true ∧ 1 ≤ State.reset.params.q ∧
    (State.reset.chan 1).dh.length = 8 * State.reset.params.q := by decide

theorem witness_DcRoundTripAtFactorTwo :
    let s := chanState { ch0 with ladIn := 0x3F800000#32 }
    (0#4).toNat < s.nch ∧ s.factor = 2 ∧ s.params.q = 1 ∧ s.params.kup2 = [F32.one, F32.one] ∧
    s.params.kdn2 = [0x3F000000#32, 0x3F000000#32] ∧ (s.chan 0).uh.length = 1 ∧ (s.chan 0).dh.length = 8 ∧
    isFinite32 (s.chan 0).ladIn = true ∧ (2 : ℚ) ^ (-125 : Int) ≤ |val32 (s.chan 0).ladIn| := by
  refine ⟨by decide, by decide, by decide, by decide, by decide, by decide, by decide, by decide, ?_⟩
  show _ ≤ |val32 0x3F800000#32|
  rw [val32_of_unpack (m := 8388608) (e := -23) (by decide)]
  norm_num

/-- The last phase of the last channel, with the fixed Gres and with a quartic supplied. -/
theorem witness_LstepCommand :
    (State.reset.legal (.lstep 1 3) = true ∧ State.reset.gresReady = true) ∧
    (let s := { cfgState 0x17 with params := { nominalParams with gres := some ⟨0, 0, 0, 0, 0⟩ } }
     s.legal (.lstep 1 7) = true ∧ s.gresReady = true ∧ s.cfg.getLsbD 2 = true) := by decide

theorem witness_FiltCommand : State.reset.legal (.filt 1) = true ∧ State.reset.gresReady = true := by decide

theorem witness_FiltEqualsFiltx : (1#4).toNat < State.reset.nch ∧ State.reset.rstN = true := by decide

/-- Each of the four places a NaN can enter by. -/
theorem witness_NanIsZeroedWithinOneFrame :
    State.reset.legal (.filt 0) = true ∧ State.reset.gresReady = true ∧ 1 ≤ State.reset.params.q ∧
    (State.reset.chan 0).uh.length = State.reset.params.q ∧
    (State.reset.chan 0).dh.length = 8 * State.reset.params.q ∧
    IsNaN ((chanState { ch0 with ladIn := 0x7FC00000#32 }).chan 0).ladIn ∧
    IsNaN ((chanState { ch0 with ladFc := 0x7FC00000#32 }).chan 0).ladFc ∧
    IsNaN ((chanState { ch0 with ladRes := 0x7FC00000#32 }).chan 0).ladRes ∧
    ((chanState { ch0 with lstate := { LadderState.zero with wc := 0x7FC00000#32 } }).chan 0).lstate.hasNaN = true := by
  unfold IsNaN
  decide

/-- Two states that differ in channel 0, VCA and the dynamics unit agree on what channel 1's commands read. -/
theorem witness_ChannelsAreIndependent :
    let s₁ := State.reset
    let s₂ := { State.reset.setChan 0 { ch0 with ladIn := 5 } with vca := bankAttack, tanhIn := 9 }
    s₁.params = s₂.params ∧ s₁.nch = s₂.nch ∧ s₁.cfg = s₂.cfg ∧ s₁.fsHost = s₂.fsHost ∧
    s₁.chan (1#4).toNat = s₂.chan (1#4).toNat ∧ ∃ t, exec (.ups 1) s₁ = .next t := by
  refine ⟨rfl, rfl, rfl, rfl, by decide, _, rfl⟩

theorem witness_OnlyTheUnsuppliedQuarticStopsAStep :
    (cfgState 0x16).cfg.getLsbD 2 = true ∧ (cfgState 0x16).params.gres = none ∧
    (cfgState 0x16).legal (.lstep 1 3) = true ∧ (cfgState 0x16).legal (.filt 1) = true ∧
    (cfgState 0x16).legal .bass = true := by decide

/-- Products that are a NaN, the two infinities, and exactly 1.0 (2^−16 s at 65536 Hz), where the range begins. -/
theorem witness_StepsConversion :
    isNaN64 (f64Mul 0x7FF8000000000000#64 (widen 0x47800000#32)) = true ∧
    f64Mul 0xFFF0000000000000#64 (widen 0x47800000#32) = 0xFFF0000000000000#64 ∧
    f64Mul 0x7FF0000000000000#64 (widen 0x47800000#32) = 0x7FF0000000000000#64 ∧
    f64Mul 0x3EF0000000000000#64 (widen 0x47800000#32) = 0x3FF0000000000000#64 ∧
    (isFinite64 0x3FF0000000000000#64 = true ∧ 1 ≤ val64 0x3FF0000000000000#64 ∧
      val64 0x3FF0000000000000#64 ≤ 16777216) := by
  refine ⟨?_, by decide +kernel, by decide +kernel, by decide +kernel, by decide, ?_, ?_⟩
  · rw [f64Mul]
    have e : fpMul (unpack64 0x7FF8000000000000#64) (unpack64 (widen 0x47800000#32)) = .nan := by decide +kernel
    rw [e]
    have h : 0x7FF8000000000000 + (Config.freeNan64 .mul (0x7FF8000000000000#64).toNat (widen 0x47800000#32).toNat).toNat %
        0x8000000000000 < 0x8000000000000000 := by omega
    simp only [pack64, nan64, isNaN64, mag64, make64, decide_eq_true_eq]
    split <;> simp <;> omega
  · rw [val64, show unpack64 0x3FF0000000000000#64 = .fin false 4503599627370496 (-52) from by decide]
    norm_num [Fp.val]
  · rw [val64, show unpack64 0x3FF0000000000000#64 = .fin false 4503599627370496 (-52) from by decide]
    norm_num [Fp.val]

/-- The context of a tick at 44100 Hz in gate mode. -/
def ctx (gate lin : Bool) : EnvCtx :=
  { p := nominalParams, bank := .vca, gate := gate, accent := false, gmode := true, lin := lin
    fs := 0x472C4400#32, res0 := 0 }

/-- Both edges, in and out of gate mode. -/
theorem witness_EdgesStartAndEndTheNote :
    ((ctx true false).gate = true ∧ State.reset.vca.gprev = false) ∧
    ((ctx false false).gate = false ∧ bankAttack.gprev = true ∧ (ctx false false).gmode = true ∧
      bankAttack.mode = .attack) ∧
    { ctx false false with gmode := false }.gmode = false ∧
    ¬ ((ctx false false).gate = true ∧ bankAttack.gprev = false) ∧
    (isFinite32 State.reset.vca.current = true ∧ State.reset.vca.current.getLsbD 31 = false ∧
      isFinite32 (if (ctx true false).accent then State.reset.vca.peakLvl else 0x3F800000#32) = true) ∧
    isNaN32 bankAttack.current = false := by decide

/-- A tick without an edge in each mode. -/
theorem witness_EnvelopeLevelOfEachMode :
    (ctx true false).gate = bankAttack.gprev ∧
    ∀ m, { bankAttack with mode := m }.mode = m := ⟨by decide, fun _ => rfl⟩

/-- A step below the target does not end the mode, the step at the target does; the accented VCF decay above the floor. -/
theorem witness_CounterTriggeredEntries :
    (ctx true false).gate = bankAttack.gprev ∧
    ¬ bankAttack.target.toNat < (bankAttack.step + 1).toNat ∧
    ({ bankAttack with step := 4 } : EnvBank).target.toNat < ((4 : Word) + 1).toNat ∧
    (let k := { ctx true false with bank := .vcf }
     let e := { bankAttack with mode := .decay, acc := true, step := 4, current := 0x3F800000#32, factor := 0x3F000000#32 }
     k.gate = e.gprev ∧ e.target.toNat < (e.step + 1).toNat ∧
     f32Le (envTick Config.tr k e).level k.p.envMin = false) := by decide +kernel

theorem witness_AttackReachesItsPeak :
    let e := { bankAttack with step := 4, peakt := 0x3F800000#32 }
    (ctx true false).gate = e.gprev ∧ e.mode = .attack ∧ e.step = e.target ∧ 1 ≤ e.target.toNat ∧
    e.target.toNat ≤ 2 ^ 24 ∧ isFinite32 e.start = true ∧ isFinite32 e.peakt = true ∧ val32 e.peakt ≠ 0 := by
  refine ⟨by decide, by decide, by decide, by decide, by decide, by decide, by decide, ?_⟩
  show val32 0x3F800000#32 ≠ 0
  rw [val32_of_unpack (m := 8388608) (e := -23) (by decide)]
  norm_num

/-- T_END = +0 gives a NOTE_END of one tick after the edge. -/
theorem witness_NoteEndReachesSilence :
    (ctx false false).gate = false ∧ bankAttack.gprev = true ∧ (ctx false false).gmode = true ∧
    bankAttack.mode = .attack ∧ isFinite32 bankAttack.current = true ∧ bankAttack.current.getLsbD 31 = false ∧
    (∀ k' ∈ [ctx false false], k'.gate = false) ∧
    ([] : List EnvCtx).length < (stepsOf (ctx false false).fs (widen bankAttack.tEnd)).toNat ∧
    [ctx false false].length = (stepsOf (ctx false false).fs (widen bankAttack.tEnd)).toNat := by decide +kernel

theorem witness_SilenceIsAbsorbing :
    State.reset.vca.mode = .silence ∧ ¬ ((ctx false false).gate = true ∧ State.reset.vca.gprev = false) ∧
    (ctx false false).gate = false ∧ (ctx true false).gate = true := by decide

/-- A linear decay at the floor, and an exponential decay with factor 1.0. -/
theorem witness_DecayNeverRises :
    let e := { bankAttack with mode := .decay, factor := 0x3F800000#32 }
    paramsOk (ctx true true).p = true ∧ (ctx true true).gate = e.gprev ∧ e.mode = .decay ∧
    isFinite32 e.current = true ∧ e.current.getLsbD 31 = false ∧ isFinite32 e.factor = true ∧
    e.factor.getLsbD 31 = false ∧ val32 (ctx true true).p.envMin ≤ val32 e.current ∧ val32 e.factor ≤ 1 := by
  refine ⟨test_params_ok, by decide, rfl, by decide, by decide, by decide, by decide, le_refl _, ?_⟩
  show val32 0x3F800000#32 ≤ 1
  rw [val32_of_unpack (m := 8388608) (e := -23) (by decide)]
  norm_num

theorem witness_BassCommand : State.reset.legal .bass = true ∧ State.reset.gresReady = true := by decide

/-- CUT_MIN and CUT_MAX in order, and out of order. -/
theorem witness_BassCutoffIsClamped :
    let s := { State.reset with bass := { State.reset.bass with cutMin := 0x41A00000#32, cutMax := 0x469C4000#32 } }
    let s' := { State.reset with bass := { State.reset.bass with cutMin := 0x469C4000#32, cutMax := 0x41A00000#32 } }
    s.legal .bass = true ∧ (∃ t, exec .bass s = .next t) ∧ ¬ IsNaN s.bass.cutMin ∧ ¬ IsNaN s.bass.cutMax ∧
    f32Le s.bass.cutMin s.bass.cutMax = true ∧ (∃ t, exec .bass s' = .next t) ∧
    f32Lt s'.bass.cutMax s'.bass.cutMin = true := by
  unfold IsNaN
  exact ⟨by decide, ⟨_, rfl⟩, by decide, by decide, by decide, ⟨_, rfl⟩, by decide⟩

/-- The dynamics tick of `s` before its failure handling. -/
def dynTickOf (s : State) : DynUnit := dynCompute Config.tr { p := s.params, sc := s.cfg.getLsbD 7, fs := s.fsHost } s.dyn

/-- A tick with finite outputs, and, with the sidechain at 0, one whose right output is infinite. -/
theorem witness_DynHardRecovery :
    (isFinite32 (dynTickOf State.reset).outL = true ∧ isFinite32 (dynTickOf State.reset).outR = true) ∧
    isFinite32 (dynTickOf { State.reset with
      cfg := 0x92#32, dyn := { State.reset.dyn with inR := 0x7F800000#32 } }).outR = false := by decide +kernel

/-- At the reset times of +0 and a zero input the coefficients are 1.0, the control value is 1.0 and the mode flips, by
`exec` and by a step; and a run of one tick from a counter of 0. -/
theorem witness_ModeFlipsAreSpaced :
    let s := { State.reset with
      inputs := [commandInput 0x40000000#32]
      dyn := { State.reset.dyn with gain := 0x3F000000#32, mode := .attack, hcnt := 13 } }
    let run := fun i : Nat => if i = 0 then State.reset else dynTick Config.tr State.reset
    (∃ t, exec .dyn s = .next t ∧ t.dyn.mode ≠ s.dyn.mode) ∧ (∃ t, step s = .next t ∧ t.dyn.mode ≠ s.dyn.mode) ∧
    (run 0).dyn.hcnt = 0 ∧
    ∀ i, i < 1 → ∃ u : State, u.dyn.hcnt = (run i).dyn.hcnt ∧ u.dyn.mode = (run i).dyn.mode ∧
      1 ≤ hystCount u.params u.fsHost ∧ exec .dyn u = .next (run (i + 1)) := by
  refine ⟨⟨_, rfl, by decide +kernel⟩, ⟨_, rfl, by decide +kernel⟩, rfl, ?_⟩
  intro i hi
  obtain rfl : i = 0 := by omega
  exact ⟨State.reset, by simp, by simp, by decide +kernel, by simp [exec, execDyn]⟩

/-- Depth 0 with an output at once, and depth 2 before the queue has filled. -/
theorem witness_LookaheadDelaysByItsDepth :
    State.reset.dyn.queue = [] ∧ State.reset.dyn.depth.toNat ≤ ([] : List Pair).length ∧
    ([(⟨1, 2⟩ : Pair)])[([] : List Pair).length - State.reset.dyn.depth.toNat]? = some ⟨1, 2⟩ ∧
    ([] : List Pair).length < ({ State.reset.dyn with depth := 2 } : DynUnit).depth.toNat := by decide

theorem witness_TimeCoefficientLimits :
    nominalParams.dynK = 0x400199999999999A#64 ∧ f32Le Config.fsMin Config.fsMin = true ∧
    f32Le Config.fsMin Config.fsMax = true ∧ f32Le Config.fsMax Config.fsMax = true := by decide

/-- A zero peak is below every threshold, and a NaN peak. -/
theorem witness_StaticCurveIsUnityBelowThreshold :
    f64Lt (widen 0xC0C00000#32)
      (f64Mul (f64OfNat 20) (trLog10 Config.tr (f64Div (widen F32.zero) nominalParams.dynRef))) = false ∧
    nominalParams.dynRef = 0x4014000000000000#64 ∧ IsNaN 0x7FC00000#32 := by unfold IsNaN; decide +kernel

theorem witness_CommandsChangeOnlyTheirRegisters :
    State.reset.legal .dyn = true ∧ Instr.dyn ≠ .reset ∧ Instr.dyn ≠ .clrst ∧ ∃ t, exec .dyn State.reset = .next t :=
  ⟨by decide, by decide, by decide, _, rfl⟩

theorem witness_StepKeepsTheInvariant :
    ({ State.reset with inputs := [commandInput 0x40000000#32] } : State).inv = true ∧
    ∃ t, step { State.reset with inputs := [commandInput 0x40000000#32] } = .next t :=
  ⟨by decide +kernel, _, rfl⟩

theorem witness_ResetMeetsTheInvariant : paramsOk nominalParams = true ∧ 1 ≤ 16 ∧ 16 ≤ 16 := ⟨test_params_ok, by decide, le_refl _⟩

end Sys2Proof.Machine.Tests
end

section
/-! PROOFS. The invariant of the CORE is kept by every step (R10, R110 to R150, R601, R611, R721, R840, R1001). One lemma for
each piece of the state says which replacement keeps the invariant; commands, writes and steps are composed of them. -/

namespace Sys2Proof.Machine

/-! ### The invariant, conjunct by conjunct -/

/-- The invariant of a CORE that RST_N does not hold in reset. -/
structure Live (s : State) : Prop where
  params   : paramsOk s.params = true
  channels : invChannels s = true
  status   : invStatus s = true
  event    : invEvent s = true
  cfg      : invCfg s = true
  fs       : invFs s = true
  envIn    : invEnvIn s = true
  vca      : invEnv s.params s.vca = true
  vcf      : invEnv s.params s.vcf = true
  dyn      : invDyn s.params s.dyn = true
  rstN     : s.rstN = true

theorem Live.inv {s : State} (h : Live s) : s.inv = true := by
  simp [State.inv, invHeld, h.params, h.channels, h.status, h.event, h.cfg, h.fs, h.envIn, h.vca, h.vcf, h.dyn, h.rstN]

theorem live_of_inv {s : State} (h : s.inv = true) (rest : List Input) :
    Live { s with inputs := rest, rstN := true } := by
  simp only [State.inv, Bool.and_eq_true] at h
  obtain ⟨⟨⟨⟨⟨⟨⟨⟨⟨⟨hp, hc⟩, hs⟩, he⟩, hg⟩, hf⟩, hi⟩, ha⟩, hv⟩, hd⟩, -⟩ := h
  exact ⟨hp, hc, hs, he, hg, hf, hi, ha, hv, hd, rfl⟩

/-- `t` meets the invariant, with the parameters and the number of channels of `s`. -/
def KeepsLive (s t : State) : Prop := Live t ∧ t.params = s.params ∧ t.nch = s.nch

theorem KeepsLive.trans {s t u : State} (h : KeepsLive s t) (h' : KeepsLive t u) : KeepsLive s u :=
  ⟨h'.1, h'.2.1.trans h.2.1, h'.2.2.trans h.2.2⟩

/-! ### The parameters (R10, R140) -/

theorem q_pos {p : Params} (h : paramsOk p = true) : 1 ≤ p.q := by
  simp only [paramsOk, Bool.and_eq_true, decide_eq_true_eq] at h
  omega

theorem osfDefault_ne_zero {p : Params} (h : paramsOk p = true) : p.osfDefault ≠ 0 := by
  simp only [paramsOk, Bool.and_eq_true, decide_eq_true_eq] at h
  tauto

/-- P_ENV_MIN is itself a legal PEAK_LVL, so that the replacement R130 makes is one. -/
theorem peakLvlLegal_envMin {p : Params} (h : paramsOk p = true) : peakLvlLegal p.envMin p.envMin = true := by
  have hf : isFinite32 p.envMin = true := by
    simp only [paramsOk, Bool.and_eq_true] at h
    tauto
  have hn : isNaN32 p.envMin = false := by
    simp only [isFinite32, isNaN32, decide_eq_true_eq, decide_eq_false_iff_not] at *
    omega
  simp [peakLvlLegal, hf, f32Le, hn]

theorem peakLvlLegal_resetValues {p : Params} (h : paramsOk p = true) :
    peakLvlLegal p.envMin p.rv.vca.peakLvl = true ∧ peakLvlLegal p.envMin p.rv.vcf.peakLvl = true := by
  simp only [paramsOk, Bool.and_eq_true] at h
  tauto

theorem dyn_resetValues_legal {p : Params} (h : paramsOk p = true) :
    dynTimeLegal p.rv.dynTaMs = true ∧ dynTimeLegal p.rv.dynTrMs = true ∧ p.rv.dynDepth.toNat ≤ p.laMax.toNat := by
  simp only [paramsOk, Bool.and_eq_true, decide_eq_true_eq] at h
  tauto

/-! ### Events and STATUS (R110, R113, R901) -/

/-- An event sets no bit that does not exist: DIV[c] only for a channel that is there. -/
theorem statusBit_masked (k : EventCode) (c n : Nat) (hn : n ≤ 16) (hc : k = .laddiv → c < n) :
    statusBit k c &&& ~~~statusMask n = 0 := by
  cases k with
  | laddiv => exact (by decide : ∀ n ≤ 16, ∀ c < n, statusBit .laddiv c &&& ~~~statusMask n = 0) n hn c (hc rfl)
  | illcmd => exact (by decide : ∀ n ≤ 16, statusBit .illcmd 0 &&& ~~~statusMask n = 0) n hn
  | buserr => exact (by decide : ∀ n ≤ 16, statusBit .buserr 0 &&& ~~~statusMask n = 0) n hn
  | cfgadj => exact (by decide : ∀ n ≤ 16, statusBit .cfgadj 0 &&& ~~~statusMask n = 0) n hn
  | dynrst => exact (by decide : ∀ n ≤ 16, statusBit .dynrst 0 &&& ~~~statusMask n = 0) n hn

theorem eventInfo_legal (k : EventCode) (c off : Nat) :
    (eventInfo k c off).toNat < 2 ^ 24 ∧ (eventInfo k c off).toNat % 2 ^ 8 ≤ 5 := by
  have hk : k.num ≤ 5 := by cases k <;> decide
  rw [eventInfo, BitVec.toNat_ofNat]
  omega

theorem invStatus_iff (s : State) :
    invStatus s = true ↔ s.status &&& ~~~statusMask s.nch = 0 ∧ s.irqEn &&& ~~~statusMask s.nch = 0 := by
  simp only [invStatus, Bool.and_eq_true, decide_eq_true_eq]

theorem invChannels_iff (s : State) :
    invChannels s = true ↔ 1 ≤ s.nch ∧ s.nch ≤ 16 ∧ ∀ ch ∈ s.chans, invChannel s.params ch = true := by
  simp only [invChannels, Bool.and_eq_true, decide_eq_true_eq, List.all_eq_true, and_assoc]

/-- Recording an event keeps the invariant. -/
theorem Live.raise {s : State} (h : Live s) (k : EventCode) (c off : Nat) (d : Word) (hc : k = .laddiv → c < s.nch) :
    KeepsLive s (raiseEvent k c off d s) := by
  obtain ⟨hs, hq⟩ := (invStatus_iff s).1 h.status
  have hn := ((invChannels_iff s).1 h.channels).2.1
  refine ⟨{ h with status := (invStatus_iff _).2 ⟨?_, hq⟩, event := ?_ }, rfl, rfl⟩
  · show (s.status ||| statusBit k c) &&& ~~~statusMask s.nch = 0
    rw [BitVec.and_or_distrib_right, hs, statusBit_masked k c _ hn hc]
    rfl
  · obtain ⟨h1, h2⟩ := eventInfo_legal k c off
    simp only [invEvent, raiseEvent_evtInfo, h1, h2, decide_true, Bool.and_true]

theorem KeepsLive.adjusted {s t : State} (h : KeepsLive s t) (off : Nat) (v : Word) : KeepsLive s (cfgAdjusted off v t) :=
  h.trans (h.1.raise .cfgadj 0 off v nofun)

/-- Writing ones to STATUS only clears bits (R110). -/
theorem Live.clearStatus {s : State} (h : Live s) (v : Word) : KeepsLive s { s with status := s.status &&& ~~~v } := by
  obtain ⟨hs, hq⟩ := (invStatus_iff s).1 h.status
  refine ⟨{ h with status := (invStatus_iff _).2 ⟨?_, hq⟩ }, rfl, rfl⟩
  show s.status &&& ~~~v &&& ~~~statusMask s.nch = 0
  rw [BitVec.and_assoc, BitVec.and_comm (~~~v), ← BitVec.and_assoc, hs]
  exact BitVec.zero_and

/-- IRQ_EN is masked to the bits that exist (R113). -/
theorem Live.maskIrqEn {s : State} (h : Live s) (v : Word) :
    KeepsLive s { s with irqEn := v &&& statusMask s.nch } := by
  refine ⟨{ h with status := (invStatus_iff _).2 ⟨((invStatus_iff s).1 h.status).1, ?_⟩ }, rfl, rfl⟩
  show v &&& statusMask s.nch &&& ~~~statusMask s.nch = 0
  rw [BitVec.and_assoc, BitVec.and_not_self]
  exact BitVec.and_zero

/-! ### Channel banks (R120 to R123, R453, R530) -/

theorem invChannel_iff (p : Params) (ch : Channel) :
    invChannel p ch = true ↔ ch.uh.length = p.q ∧ ch.dh.length = 8 * p.q ∧ isFinite32 ch.ladOut = true := by
  simp only [invChannel, Bool.and_eq_true, decide_eq_true_eq, and_assoc]

theorem invChannel_resetChannel (p : Params) : invChannel p (resetChannel p) = true :=
  (invChannel_iff ..).2 ⟨List.length_replicate, List.length_replicate, rfl⟩

theorem invChannel_clearProcessing (p : Params) (ch : Channel) : invChannel p (clearProcessing p ch) = true :=
  (invChannel_iff ..).2 ⟨List.length_replicate, List.length_replicate, rfl⟩

theorem invChannel_clearOversampler {p : Params} {ch : Channel} (h : invChannel p ch = true) :
    invChannel p (clearOversampler p ch) = true :=
  (invChannel_iff ..).2 ⟨List.length_replicate, List.length_replicate, ((invChannel_iff ..).1 h).2.2⟩

theorem invChannel_upsample {p : Params} {ch : Channel} (hq : 1 ≤ p.q) (o : Osf) (h : invChannel p ch = true) :
    invChannel p (upsample p o ch) = true := by
  obtain ⟨hu, hd, hl⟩ := (invChannel_iff ..).1 h
  exact (invChannel_iff ..).2 ⟨(shiftIn_length _ _ _ hq hu.ge).trans hu, hd, hl⟩

theorem foldl_shiftIn_length (n : Nat) (x : Nat → F32) (l : List Nat) (h : List F32) (h1 : 1 ≤ n) (h2 : n ≤ h.length) :
    (l.foldl (fun dh i => shiftIn n (x i) dh) h).length = h.length := by
  induction l generalizing h with
  | nil => rfl
  | cons i l ih =>
    have hs := shiftIn_length n (x i) h h1 h2
    rw [List.foldl_cons, ih _ (by omega), hs]

theorem decimHistory_length {p : Params} {ch : Channel} (hq : 1 ≤ p.q) (o : Osf) (h : ch.dh.length = 8 * p.q) :
    (decimHistory p o ch).length = 8 * p.q := by
  have ho : 1 * 1 ≤ o.factor * p.q ∧ o.factor * p.q ≤ 8 * p.q := by
    cases o <;> simp only [Osf.factor] <;> omega
  rw [decimHistory, foldl_shiftIn_length _ _ _ _ ho.1 (by omega), h]

theorem invChannel_decimate {p : Params} {ch : Channel} (hq : 1 ≤ p.q) (o : Osf) (h : invChannel p ch = true) :
    invChannel p (decimate p o ch).ch = true := by
  obtain ⟨hu, hd, -⟩ := (invChannel_iff ..).1 h
  rcases decimate_spec p o ch with ⟨hf, e⟩ | ⟨-, e⟩ <;> rw [e]
  · exact (invChannel_iff ..).2 ⟨hu, decimHistory_length hq o hd, hf⟩
  · exact invChannel_clearProcessing p ch

theorem invChannel_ladderStep {p : Params} {k : LadderCtx} {i : Nat} {ch ch' : Channel} (h : invChannel p ch = true)
    (hs : ladderStep k i ch = some ch') : invChannel p ch' = true := by
  obtain ⟨co, -, rfl⟩ := Option.map_eq_some_iff.1 hs
  exact h

theorem invChannel_ladderSteps {p : Params} {k : LadderCtx} {n : Nat} {ch ch' : Channel} (h : invChannel p ch = true)
    (hs : ladderSteps k n ch = some ch') : invChannel p ch' = true := by
  induction n generalizing ch' with
  | zero =>
    cases hs
    exact h
  | succ n ih =>
    obtain ⟨c1, h1, h2⟩ := Option.bind_eq_some_iff.1 hs
    exact invChannel_ladderStep (ih h1) h2

theorem invChannel_ladderFrame {k : LadderCtx} {ch : Channel} {d : Decimated} (hq : 1 ≤ k.p.q)
    (h : invChannel k.p ch = true) (hf : ladderFrame k ch = some d) : invChannel k.p d.ch = true := by
  obtain ⟨c1, h1, rfl⟩ := Option.map_eq_some_iff.1 hf
  exact invChannel_decimate hq _ (invChannel_ladderSteps (invChannel_upsample hq _ h) h1)

/-- Replacing the banks by as many well-formed ones keeps the invariant. -/
theorem Live.withChans {s : State} (h : Live s) {l : List Channel} (hl : l.length = s.nch)
    (hi : ∀ ch ∈ l, invChannel s.params ch = true) : KeepsLive s { s with chans := l } := by
  obtain ⟨h1, h2, -⟩ := (invChannels_iff s).1 h.channels
  have hs := (invStatus_iff s).1 h.status
  refine ⟨{ h with channels := (invChannels_iff _).2 ⟨?_, ?_, hi⟩, status := (invStatus_iff _).2 ?_ }, rfl, hl⟩
  · exact hl.ge.trans' h1
  · exact hl.le.trans h2
  · rw [← hl] at hs
    exact hs

/-- The bank a command works on is well formed, whether the channel exists or not. -/
theorem Live.chan {s : State} (h : Live s) (c : Nat) : invChannel s.params (s.chan c) = true := by
  rw [State.chan, List.getD_eq_getElem?_getD]
  cases hc : s.chans[c]? with
  | none => exact invChannel_resetChannel s.params
  | some ch => exact ((invChannels_iff s).1 h.channels).2.2 ch (List.mem_of_getElem? hc)

theorem Live.mapChans {s : State} (h : Live s) {f : Channel → Channel}
    (hf : ∀ ch, invChannel s.params ch = true → invChannel s.params (f ch) = true) :
    KeepsLive s { s with chans := s.chans.map f } := by
  refine h.withChans (List.length_map _) fun ch hm => ?_
  obtain ⟨c0, h0, rfl⟩ := List.mem_map.1 hm
  exact hf c0 (((invChannels_iff s).1 h.channels).2.2 c0 h0)

theorem Live.setChan {s : State} (h : Live s) (c : Nat) {ch : Channel} (hc : invChannel s.params ch = true) :
    KeepsLive s (s.setChan c ch) := by
  refine h.withChans List.length_set fun x hx => ?_
  rcases List.mem_or_eq_of_mem_set hx with hm | rfl
  · exact ((invChannels_iff s).1 h.channels).2.2 x hm
  · exact hc

theorem Live.chanWrite {s : State} (h : Live s) (c : Nat) {f : Channel → Channel}
    (hf : ∀ ch, invChannel s.params ch = true → invChannel s.params (f ch) = true) : KeepsLive s (s.chanWrite c f) := by
  have hall := ((invChannels_iff s).1 h.channels).2.2
  refine h.withChans (List.length_modify ..) fun x hx => ?_
  obtain ⟨i, hi, rfl⟩ := List.getElem_of_mem hx
  rw [List.getElem_modify]
  split
  · exact hf _ (hall _ (List.getElem_mem _))
  · exact hall _ (List.getElem_mem _)

/-- Putting a decimated channel back keeps the invariant; a recovery records LADDIV for a channel that exists. -/
theorem Live.finishDecim {s : State} (h : Live s) {c : Nat} (hc : c < s.nch) {d : Decimated}
    (hd : invChannel s.params d.ch = true) : KeepsLive s (finishDecim c d s) := by
  have hs := h.setChan c hd
  rcases finishDecim_spec c d s with ⟨-, e⟩ | ⟨v, -, e⟩ <;> rw [e]
  · exact hs
  · exact hs.trans (hs.1.raise .laddiv c 0 v fun _ => by rwa [hs.2.2])

/-! ### CFG and FS_HOST (R114, R115) -/

theorem cfgStored_legal {p : Params} (h : p.osfDefault ≠ 0) (v : Word) :
    (cfgStored p v).toNat < 2 ^ 8 ∧ (cfgStored p v).toNat % 4 ≠ 0 := by
  have hw : (v &&& 0xFF#32).toNat = v.toNat % 2 ^ 8 := by
    rw [BitVec.toNat_and]
    exact Nat.and_two_pow_sub_one_eq_mod _ 8
  unfold cfgStored
  dsimp only
  split
  next h0 =>
    have hd : (p.osfDefault.setWidth 32).toNat = p.osfDefault.toNat := BitVec.toNat_setWidth_of_le (by decide)
    have hlt := p.osfDefault.isLt
    have hne : p.osfDefault.toNat ≠ 0 := fun e => h (BitVec.eq_of_toNat_eq e)
    rw [BitVec.toNat_or, hw, hd]
    refine ⟨Nat.or_lt_two_pow (Nat.mod_lt _ (by decide)) (by omega), ?_⟩
    rw [show 4 = 2 ^ 2 from rfl, Nat.or_mod_two_pow, show v.toNat % 2 ^ 8 % 2 ^ 2 = 0 by omega, Nat.zero_or]
    omega
  next h0 =>
    rw [hw]
    omega

theorem Live.writeCfg {s : State} (h : Live s) (v : Word) : KeepsLive s (writeCfg v s) := by
  obtain ⟨hlt, hne⟩ := cfgStored_legal (osfDefault_ne_zero h.params) v
  have hc : ∀ {t : State}, KeepsLive s t → KeepsLive s { t with cfg := cfgStored s.params v } := fun ht =>
    ⟨{ ht.1 with cfg := by simp only [invCfg, hlt, hne, ne_eq, not_false_eq_true, decide_true, Bool.and_true] }, ht.2⟩
  have ht : KeepsLive s (if (cfgStored s.params v).toNat % 4 = s.cfg.toNat % 4 then s
      else { s with chans := s.chans.map (clearOversampler s.params) }) := by
    split
    · exact ⟨h, rfl, rfl⟩
    · exact h.mapChans fun _ => invChannel_clearOversampler
  simp only [Machine.writeCfg]
  split
  · exact KeepsLive.adjusted (hc ht) ..
  · exact hc ht

/-- What is stored in FS_HOST is in its range. -/
theorem fsStored_range (w : F32) : f32Le Config.fsMin (fsStored w) = true ∧ f32Le (fsStored w) Config.fsMax = true := by
  unfold fsStored
  split
  · decide
  next h1 =>
    split
    · decide
    next h2 =>
      have hmin : isNaN32 Config.fsMin = false := by decide
      have hmax : isNaN32 Config.fsMax = false := by decide
      simp only [Bool.or_eq_true, not_or, Bool.not_eq_true] at h1 h2
      obtain ⟨hn, hlt⟩ := h1
      simp only [f32Lt, f32Le, hn, hmin, hmax, Bool.not_false, Bool.true_and, decide_eq_false_iff_not,
        decide_eq_true_eq] at *
      omega

theorem Live.writeFsHost {s : State} (h : Live s) (v : Word) : KeepsLive s (writeFsHost v s) := by
  obtain ⟨h1, h2⟩ := fsStored_range v
  have ht : KeepsLive s { s with fsHost := fsStored v } :=
    ⟨{ h with fs := by simp only [invFs, h1, h2, Bool.and_true] }, rfl, rfl⟩
  unfold Machine.writeFsHost
  split
  · exact ht
  · exact KeepsLive.adjusted ht ..

/-! ### Envelope banks (R130, R131, R601 to R611) -/

theorem invEnv_iff (p : Params) (e : EnvBank) :
    invEnv p e = true ↔ peakLvlLegal p.envMin e.peakLvl = true ∧ (1 ≤ e.target.toNat ∧ e.target.toNat ≤ 2 ^ 24) ∧
      (e.mode ≠ .decay → e.mode ≠ .silence → e.step.toNat ≤ e.target.toNat) ∧
      (e.mode = .silence → e.current = p.envMin) := by
  unfold invEnv
  cases e.mode <;> simp [and_assoc]

/-- A bank in SILENCE at the floor with the TARGET that a reset gives. -/
theorem invEnv_silent {p : Params} {e : EnvBank} (hp : peakLvlLegal p.envMin e.peakLvl = true) (ht : e.target = 1)
    (hm : e.mode = .silence) (hc : e.current = p.envMin) : invEnv p e = true :=
  (invEnv_iff ..).2 ⟨hp, ht ▸ by decide, fun _ h => absurd hm h, fun _ => hc⟩

/-- A bank that has just entered a mode with a counter. -/
theorem invEnv_entered {p : Params} {e : EnvBank} (hp : peakLvlLegal p.envMin e.peakLvl = true) (fs : F32) (t : F64)
    (ht : e.target = stepsOf fs t) (hs : e.step = 0) (hm : e.mode ≠ .silence) : invEnv p e = true := by
  refine (invEnv_iff ..).2 ⟨hp, ht ▸ stepsOf_range fs t, fun _ _ => ?_, fun h => absurd h hm⟩
  rw [hs]
  exact Nat.zero_le _

theorem invEnv_clearEnv {p : Params} {e : EnvBank} (hp : peakLvlLegal p.envMin e.peakLvl = true) :
    invEnv p (clearEnv p e) = true :=
  invEnv_silent hp rfl rfl rfl

theorem invEnv_resetEnv {p : Params} {r : EnvResetValues} (hp : peakLvlLegal p.envMin r.peakLvl = true) :
    invEnv p (resetEnv p r) = true :=
  invEnv_silent hp rfl rfl rfl

theorem invEnv_envEdge {k : EnvCtx} {e : EnvBank} (h : invEnv k.p e = true) : invEnv k.p (envEdge k e) = true := by
  have hp := ((invEnv_iff ..).1 h).1
  rcases envEdge_cases k e with ⟨-, -, he⟩ | ⟨-, -, -, -, he⟩ | ⟨-, -, he⟩ <;> rw [he]
  · exact invEnv_entered hp _ _ rfl rfl nofun
  · exact invEnv_entered hp _ _ rfl rfl nofun
  · exact h

theorem invEnv_envLevel {k : EnvCtx} {e : EnvBank} (h : invEnv k.p e = true) : invEnv k.p (envLevel k e) = true := by
  obtain ⟨hp, ht, hs, -⟩ := (invEnv_iff ..).1 h
  refine (invEnv_iff ..).2 ⟨hp, ht, hs, fun hm => ?_⟩
  have hm : e.mode = .silence := hm
  simp only [envLevel, envCurrent, hm]

/-- Whatever STEP is, a counter-triggered transition leads into the invariant. -/
theorem invEnv_envAdvance {tr : TR} {k : EnvCtx} {e : EnvBank} (hp : peakLvlLegal k.p.envMin e.peakLvl = true)
    (ht : 1 ≤ e.target.toNat ∧ e.target.toNat ≤ 2 ^ 24) (hm : e.mode ≠ .silence) :
    invEnv k.p (envAdvance tr k e) = true := by
  unfold envAdvance
  split
  · split
    · exact invEnv_entered hp _ _ rfl rfl nofun
    · exact invEnv_entered hp _ _ rfl rfl nofun
  · exact invEnv_entered hp _ _ rfl rfl nofun
  next hd =>
    split
    · exact (invEnv_iff ..).2 ⟨hp, ht, fun h => absurd hd h, fun h => absurd h hm⟩
    · exact invEnv_entered hp _ _ rfl rfl nofun
  · exact (invEnv_iff ..).2 ⟨hp, ht, fun _ h => absurd rfl h, fun _ => rfl⟩
  next hs => exact absurd hs hm

theorem invEnv_envCount {tr : TR} {k : EnvCtx} {e : EnvBank} (h : invEnv k.p e = true) :
    invEnv k.p (envCount tr k e) = true := by
  obtain ⟨hp, ht, -, hc⟩ := (invEnv_iff ..).1 h
  rcases envCount_spec tr k e with ⟨-, he⟩ | ⟨hm, hle, he⟩ | ⟨hm, -, he⟩ <;> rw [he]
  · exact h
  · exact (invEnv_iff ..).2 ⟨hp, ht, fun _ _ => hle, hc⟩
  · exact invEnv_envAdvance hp ht hm

theorem invEnv_envTick {tr : TR} {k : EnvCtx} {e : EnvBank} (h : invEnv k.p e = true) :
    invEnv k.p (envTick tr k e) = true :=
  invEnv_envCount (invEnv_envLevel (invEnv_envEdge h))

theorem Live.env {s : State} (h : Live s) (b : Bank) : invEnv s.params (s.env b) = true := by
  cases b with
  | vca => exact h.vca
  | vcf => exact h.vcf

theorem Live.setEnv {s : State} (h : Live s) (b : Bank) {e : EnvBank} (he : invEnv s.params e = true) :
    KeepsLive s (s.setEnv b e) := by
  cases b with
  | vca => exact ⟨{ h with vca := he }, rfl, rfl⟩
  | vcf => exact ⟨{ h with vcf := he }, rfl, rfl⟩

theorem Live.tickEnv {s : State} (h : Live s) (tr : TR) (b : Bank) : KeepsLive s (tickEnv tr b s) :=
  h.setEnv b (invEnv_envTick (k := s.envCtx b) (h.env b))

theorem Live.writePeakLvl {s : State} (h : Live s) (b : Bank) (off : Nat) (v : Word) :
    KeepsLive s (writePeakLvl b off v s) := by
  have hw : ∀ x, peakLvlLegal s.params.envMin x = true → KeepsLive s (s.setEnv b { s.env b with peakLvl := x }) :=
    fun x hx => h.setEnv b ((invEnv_iff ..).2 ⟨hx, ((invEnv_iff ..).1 (h.env b)).2⟩)
  unfold Machine.writePeakLvl
  split
  next hl => exact hw v hl
  next => exact KeepsLive.adjusted (hw _ (peakLvlLegal_envMin h.params)) ..

theorem Live.writeEnv {s : State} (h : Live s) (b : Bank) (r : EnvReg) (v : Word) : KeepsLive s (writeEnv b r v s) := by
  cases r with
  | peakLvl => exact h.writePeakLvl ..
  | tAtt | tAccAtt | tPeak | tDec | tAccDec | tEnd => exact h.setEnv b (h.env b)
  | _ => exact ⟨h, rfl, rfl⟩

/-! ### Dynamics (R150, R151, R702, R720) -/

theorem invDyn_iff (p : Params) (d : DynUnit) :
    invDyn p d = true ↔ dynTimeLegal d.taMs = true ∧ dynTimeLegal d.trMs = true ∧ d.depth.toNat ≤ p.laMax.toNat ∧
      d.queue.length ≤ p.laMax.toNat ∧ isFinite32 d.outL = true ∧ isFinite32 d.outR = true := by
  simp only [invDyn, Bool.and_eq_true, decide_eq_true_eq, and_assoc]

theorem Live.withDyn {s : State} (h : Live s) {d : DynUnit} (hd : invDyn s.params d = true) :
    KeepsLive s { s with dyn := d } := ⟨{ h with dyn := hd }, rfl, rfl⟩

theorem dynTimeStored_legal (v : F32) : dynTimeLegal (dynTimeStored v) = true := by
  unfold dynTimeStored
  split
  next h => exact h
  next => decide

theorem Live.writeDynTaMs {s : State} (h : Live s) (v : Word) : KeepsLive s (writeDynTaMs v s) := by
  have ht := h.withDyn (d := { s.dyn with taMs := dynTimeStored v })
    ((invDyn_iff ..).2 ⟨dynTimeStored_legal v, ((invDyn_iff ..).1 h.dyn).2⟩)
  unfold Machine.writeDynTaMs
  split
  · exact ht
  · exact KeepsLive.adjusted ht ..

theorem Live.writeDynTrMs {s : State} (h : Live s) (v : Word) : KeepsLive s (writeDynTrMs v s) := by
  obtain ⟨ha, -, hd⟩ := (invDyn_iff ..).1 h.dyn
  have ht := h.withDyn (d := { s.dyn with trMs := dynTimeStored v }) ((invDyn_iff ..).2 ⟨ha, dynTimeStored_legal v, hd⟩)
  unfold Machine.writeDynTrMs
  split
  · exact ht
  · exact KeepsLive.adjusted ht ..

theorem Live.writeDynDepth {s : State} (h : Live s) (v : Word) : KeepsLive s (writeDynDepth v s) := by
  obtain ⟨ha, hr, -, hd⟩ := (invDyn_iff ..).1 h.dyn
  have ht : ∀ x : Word, x.toNat ≤ s.params.laMax.toNat → KeepsLive s { s with dyn := { s.dyn with depth := x } } :=
    fun x hx => h.withDyn ((invDyn_iff ..).2 ⟨ha, hr, hx, hd⟩)
  unfold Machine.writeDynDepth
  split
  next hv => exact ht v hv
  next => exact KeepsLive.adjusted (ht _ (le_refl _)) ..

/-- After the while loop of R702 the queue holds at most DYN_DEPTH pairs. -/
theorem dynCompute_queue_length (tr : TR) (k : DynCtx) (d : DynUnit) :
    (dynCompute tr k d).queue.length ≤ d.depth.toNat := by
  show (drainQueue d.depth.toNat (d.queue ++ [⟨d.inL, d.inR⟩]) none).2.length ≤ _
  rw [drainQueue_spec, List.length_drop]
  omega

theorem Live.dynTick {s : State} (h : Live s) (tr : TR) : KeepsLive s (dynTick tr s) := by
  obtain ⟨ha, hr, hd, -⟩ := (invDyn_iff ..).1 h.dyn
  generalize hu : dynCompute tr { p := s.params, sc := cfgSc s.cfg, fs := s.fsHost } s.dyn = u
  have hq : u.queue.length ≤ s.params.laMax.toNat := hu ▸ (dynCompute_queue_length tr _ s.dyn).trans hd
  have hw : u.taMs = s.dyn.taMs ∧ u.trMs = s.dyn.trMs ∧ u.depth = s.dyn.depth := hu ▸ ⟨rfl, rfl, rfl⟩
  obtain ⟨eta, etr, ed⟩ := hw
  rw [← eta] at ha
  rw [← etr] at hr
  rw [← ed] at hd
  rcases dynTick_cases tr s u hu.symm with ⟨hL, hR, e⟩ | ⟨-, e⟩ <;> rw [e]
  · exact h.withDyn ((invDyn_iff ..).2 ⟨ha, hr, hd, hq, hL, hR⟩)
  · have ht := h.withDyn (d := dynRecover u) ((invDyn_iff ..).2 ⟨ha, hr, hd, hq, rfl, rfl⟩)
    exact ht.trans (ht.1.raise .dynrst 0 0 0 nofun)

/-! ### Reset and clear (R820, R1000) -/

/-- The reset state of any CORE with admissible parameters meets the invariant. -/
theorem live_ofParams {p : Params} {n : Nat} (hp : paramsOk p = true) (h1 : 1 ≤ n) (h16 : n ≤ 16) :
    Live (State.ofParams p n) := by
  have hn : (State.ofParams p n).nch = n := List.length_replicate
  obtain ⟨hvca, hvcf⟩ := peakLvlLegal_resetValues hp
  obtain ⟨hta, htr, hdepth⟩ := dyn_resetValues_legal hp
  exact {
    params := hp
    channels := (invChannels_iff _).2 ⟨hn.ge.trans' h1, hn.le.trans h16, fun ch hc =>
      List.eq_of_mem_replicate hc ▸ invChannel_resetChannel p⟩
    status := (invStatus_iff _).2 ⟨BitVec.zero_and, BitVec.zero_and⟩
    event := rfl
    cfg := (by decide : ∀ b : BitVec 2, b ≠ 0 → (decide ((0x10#32 ||| b.setWidth 32).toNat < 2 ^ 8) &&
      decide ((0x10#32 ||| b.setWidth 32).toNat % 4 ≠ 0)) = true) _ (osfDefault_ne_zero hp)
    fs := (by decide : (f32Le Config.fsMin Config.fsMin && f32Le Config.fsMin Config.fsMax) = true)
    envIn := rfl
    vca := invEnv_resetEnv hvca
    vcf := invEnv_resetEnv hvcf
    dyn := (invDyn_iff ..).2 ⟨hta, htr, hdepth, Nat.zero_le _, rfl, rfl⟩
    rstN := rfl }

theorem Live.resetCore {s : State} (h : Live s) : KeepsLive s (resetCore s) := by
  obtain ⟨h1, h16, -⟩ := (invChannels_iff s).1 h.channels
  exact ⟨{ live_ofParams h.params h1 h16 with rstN := h.rstN }, rfl, State.nch_resetCore s⟩

theorem Live.clearState {s : State} (h : Live s) : KeepsLive s (clearState s) := by
  obtain ⟨hc, -, hn⟩ := h.mapChans (f := clearProcessing s.params) fun ch _ => invChannel_clearProcessing s.params ch
  obtain ⟨ha, hr, hd, -⟩ := (invDyn_iff ..).1 h.dyn
  exact ⟨{ hc with
    vca := invEnv_clearEnv ((invEnv_iff ..).1 h.vca).1
    vcf := invEnv_clearEnv ((invEnv_iff ..).1 h.vcf).1
    dyn := (invDyn_iff ..).2 ⟨ha, hr, hd, Nat.zero_le _, rfl, rfl⟩ }, rfl, hn⟩

/-! ### Commands (R304) -/

theorem Live.bassFinish {s : State} (h : Live s) (fc : F32) {d : Decimated} (hd : invChannel s.params d.ch = true) :
    KeepsLive s (bassFinish fc d s) := by
  obtain ⟨ht, hk⟩ := h.finishDecim ((invChannels_iff s).1 h.channels).1 hd
  exact ⟨{ ht with }, hk⟩

theorem Live.bassFrame {s t : State} (h : Live s) {tr : TR} (hf : bassFrame tr s = some t) : KeepsLive s t := by
  have hv := h.tickEnv tr .vca
  have hu := hv.trans (hv.1.tickEnv tr .vcf)
  rw [Machine.bassFrame] at hf
  generalize Machine.tickEnv tr .vcf (Machine.tickEnv tr .vca s) = u at hu hf
  obtain ⟨d, hd, ht⟩ := Option.map_eq_some_iff.1 hf
  have hc : invChannel u.params d.ch = true :=
    invChannel_ladderFrame (k := u.ladderCtx _) (q_pos hu.1.params) (hu.1.chan 0) hd
  rw [← ht]
  exact hu.trans (hu.1.bassFinish _ hc)

/-- Every legal command that answers a next state keeps the invariant. -/
theorem Live.exec_legal {s t : State} {i : Instr} (h : Live s) (hl : s.legal i = true) (he : exec i s = .next t) :
    KeepsLive s t := by
  have hq := q_pos h.params
  have hlt : ∀ c : BitVec 4, decide (c.toNat < s.nch) = true → c.toNat < s.nch := fun c => of_decide_eq_true
  cases i with
  | nop =>
    cases he
    exact ⟨h, rfl, rfl⟩
  | reset =>
    cases he
    exact h.resetCore
  | clrst =>
    cases he
    exact h.clearState
  | tanh =>
    cases he
    exact ⟨{ h with }, rfl, rfl⟩
  | ups c =>
    rw [exec_ups s c hl] at he
    cases he
    exact h.setChan _ (invChannel_upsample hq _ (h.chan _))
  | lstep c i =>
    simp only [exec, execLstep, hl, if_true] at he
    split at he
    next ch hs =>
      cases he
      exact h.setChan _ (invChannel_ladderStep (h.chan _) hs)
    next => cases he
  | dec c =>
    rw [exec_dec s c hl] at he
    cases he
    exact h.finishDecim (hlt c hl) (invChannel_decimate hq _ (h.chan _))
  | filt c =>
    simp only [exec, execFilt, hl, if_true] at he
    split at he
    next d hd =>
      cases he
      exact h.finishDecim (hlt c hl) (invChannel_ladderFrame hq (h.chan _) hd)
    next => cases he
  | vca =>
    cases he
    exact h.tickEnv _ .vca
  | vcf =>
    cases he
    exact h.tickEnv _ .vcf
  | bass =>
    simp only [exec, execBass, hl, if_true] at he
    split at he
    next u hu =>
      cases he
      exact h.bassFrame hu
    next => cases he
  | dyn =>
    cases he
    exact h.dynTick _

theorem Live.illegalWord {s : State} (h : Live s) (w : Word) : KeepsLive s (illegalWord w s) :=
  h.raise .illcmd 0 0 w nofun

theorem Live.command {s t : State} {w : Word} (h : Live s) (hc : command w s = .next t) : KeepsLive s t := by
  unfold Machine.command at hc
  split at hc
  next i _ =>
    cases hl : s.legal i with
    | true => exact h.exec_legal hl hc
    | false =>
      rw [exec_illegal i s hl] at hc
      cases hc
      exact h.illegalWord _
  next =>
    cases hc
    exact h.illegalWord w

/-! ### Bus accesses and steps (R202, R204, R1001) -/

theorem Live.writeReg {s : State} (h : Live s) (v : Word) (r : Reg) : KeepsLive s (writeReg v s r) := by
  cases r with
  | status => exact h.clearStatus v
  | irqEn => exact h.maskIrqEn v
  | cfg => exact h.writeCfg v
  | fsHost => exact h.writeFsHost v
  | ladIn c | ladFc c | ladRes c => exact h.chanWrite c fun _ hc => hc
  | env b r => exact h.writeEnv b r v
  | envIn =>
    have hv : (v &&& 3).toNat < 4 := Nat.lt_of_le_of_lt Nat.and_le_right (by decide)
    exact ⟨{ h with envIn := decide_eq_true hv }, rfl, rfl⟩
  | dynTaMs => exact h.writeDynTaMs v
  | dynTrMs => exact h.writeDynTrMs v
  | dynDepth => exact h.writeDynDepth v
  | _ => exact ⟨{ h with }, rfl, rfl⟩

theorem Live.busAccess {s t : State} {a : Access} (h : Live s) (ha : busAccess a s = .next t) : KeepsLive s t := by
  rcases busAccess_cases ha with
    ⟨_, -, -, rfl⟩ | ⟨w, addr, -, -, rfl⟩ | ⟨w, addr, v, -, -, rfl⟩ | ⟨_, _, -, -, -, hc⟩ | ⟨_, v, -, -, -, rfl⟩
  · exact ⟨{ h with }, rfl, rfl⟩
  · have hr : Live { s with rdata := 0 } := { h with }
    exact hr.raise .buserr 0 _ 0 nofun
  · exact h.raise .buserr 0 _ v nofun
  · exact h.command hc
  · exact h.writeReg v _

/-- The level of RST_N enters the invariant in `invHeld` alone. -/
theorem inv_eq (s : State) : s.inv = (({ s with rstN := true } : State).inv && invHeld s) := by
  simp only [State.inv, invHeld, Bool.true_or, Bool.and_true]
  rfl

/-- A CORE that holds the reset state meets the invariant. -/
theorem inv_of_reset {s : State} (hp : paramsOk s.params = true) (h1 : 1 ≤ s.nch) (h16 : s.nch ≤ 16)
    (hr : resetCore s = s) : s.inv = true := by
  have hl : Live { resetCore s with rstN := true } := { live_ofParams hp h1 h16 with rstN := rfl }
  rw [hr] at hl
  rw [inv_eq, hl.inv, invHeld, decide_eq_true hr, Bool.or_true]
  rfl

theorem resetCore_idem (s : State) : resetCore (resetCore s) = resetCore s := by
  show ({ State.ofParams s.params (resetCore s).nch with
    inputs := s.inputs, rdata := s.rdata, rstN := s.rstN } : State) = _
  rw [State.nch_resetCore]
  rfl

/-- The access that RST_N holds off leaves the reset state (R1001). -/
theorem resetCore_heldAccess {s : State} (hr : resetCore s = s) (a : Access) (rest : List Input) :
    resetCore (heldAccess a { s with inputs := rest }) = heldAccess a { s with inputs := rest } := by
  cases a with
  | read w addr => exact congrArg (fun u : State => { u with inputs := rest, rdata := 0 }) hr
  | write w addr v => exact congrArg (fun u : State => { u with inputs := rest }) hr

theorem heldAccess_params_chans (a : Access) (s : State) :
    (heldAccess a s).params = s.params ∧ (heldAccess a s).chans = s.chans := by
  cases a <;> exact ⟨rfl, rfl⟩

/-- Settles O59: a step is an idle one, an edge of RST_N, an access that RST_N holds off, or one the CORE serves, and each
keeps the invariant. -/
theorem stepKeepsTheInvariant : Obligations.StepKeepsTheInvariant := by
  unfold Obligations.StepKeepsTheInvariant
  intro s t hs ht
  have hl := live_of_inv hs
  obtain ⟨h1, h16, -⟩ := (invChannels_iff _).1 (hl []).channels
  rcases step_cases ht with ⟨-, rfl⟩ | ⟨rest, -, rfl⟩ | ⟨rest, -, rfl⟩ | ⟨a, rest, -, hr, rfl⟩ | ⟨a, rest, -, hr, ha⟩
  · exact ⟨hs, rfl, rfl⟩
  · have hn : (resetCore s).nch = s.nch := State.nch_resetCore s
    have hi := congrArg (fun u : State => { u with inputs := rest, rstN := false }) (resetCore_idem s)
    exact ⟨inv_of_reset (hl []).params (hn.ge.trans' h1) (hn.le.trans h16) hi, rfl, hn⟩
  · exact ⟨(hl rest).inv, rfl, rfl⟩
  · obtain ⟨hp, hc⟩ := heldAccess_params_chans a { s with inputs := rest }
    have hn : (heldAccess a { s with inputs := rest }).nch = s.nch := congrArg List.length hc
    rw [inv_eq, Bool.and_eq_true, invHeld, hr, Bool.false_or, decide_eq_true_eq] at hs
    have hok := (congrArg paramsOk hp).trans (hl []).params
    exact ⟨inv_of_reset hok (hn.ge.trans' h1) (hn.le.trans h16) (resetCore_heldAccess hs.2 a rest), hp, hn⟩
  · have he : { s with inputs := rest, rstN := true } = { s with inputs := rest } := by rw [hr]
    obtain ⟨hi, hp, hn⟩ := (he ▸ hl rest).busAccess ha
    exact ⟨hi.inv, hp, hn⟩

end Sys2Proof.Machine
end

section
/-! PROOFS. Rounding to nearest, ties to even, of a nonnegative rational to the magnitude patterns of a binary format with
`F` fraction bits and least exponent `E` (spec/00_scope.md R13). The magnitude patterns are the naturals in the order of their
values, so that rounding is said by the midpoints of neighbouring patterns. -/

namespace Sys2Proof.Machine

/-! ### The values of magnitude patterns -/

/-- The value of the magnitude pattern `g`: exponent field `g / 2^F`, fraction field `g % 2^F`. -/
def magVal (F : Nat) (E : Int) (g : Nat) : ℚ :=
  if g / 2 ^ F = 0 then ((g % 2 ^ F : Nat) : ℚ) * 2 ^ E
  else ((g % 2 ^ F + 2 ^ F : Nat) : ℚ) * 2 ^ (((g / 2 ^ F : Nat) : Int) - (1 - E))

/-- The midpoint between the pattern `g` and the next one. -/
def magMid (F : Nat) (E : Int) (g : Nat) : ℚ := (magVal F E g + magVal F E (g + 1)) / 2

/-- `g` is the magnitude pattern nearest to `r ≥ 0`, the even one when `r` is a midpoint. -/
def RoundsTo (F : Nat) (E : Int) (r : ℚ) (g : Nat) : Prop :=
  (r ≤ magMid F E g ∧ (r = magMid F E g → g % 2 = 0)) ∧
  ∀ h, g = h + 1 → magMid F E h ≤ r ∧ (magMid F E h = r → g % 2 = 0)

section
variable {F : Nat} {E : Int}

/-- A binade, and the subnormals for `k = 0`: from `2^F` to `2^(F+1)` the patterns count multiples of one power of two. -/
theorem magVal_binade {k s : Nat} (hs : s ≤ 2 ^ (F + 1)) (hk : k = 0 ∨ 2 ^ F ≤ s) :
    magVal F E (k * 2 ^ F + s) = s * 2 ^ (E + k) := by
  have hpos : 0 < 2 ^ F := Nat.two_pow_pos F
  have h2 : 2 ^ (F + 1) = 2 * 2 ^ F := by ring
  unfold magVal
  rcases lt_trichotomy s (2 ^ F) with hlt | rfl | hgt
  · obtain rfl : k = 0 := hk.resolve_right (by omega)
    simp [Nat.div_eq_of_lt hlt, Nat.mod_eq_of_lt hlt]
  · have hd : (k * 2 ^ F + 2 ^ F) = 2 ^ F * (k + 1) := by ring
    rw [hd, Nat.mul_div_cancel_left _ hpos, Nat.mul_mod_right, if_neg (by omega)]
    push_cast
    ring_nf
  · obtain ⟨d, rfl⟩ := Nat.exists_eq_add_of_lt hgt
    rcases Nat.lt_or_ge (d + 1) (2 ^ F) with hd | hd
    · have hg : k * 2 ^ F + (2 ^ F + d + 1) = (d + 1) + 2 ^ F * (k + 1) := by ring
      rw [hg, Nat.add_mul_div_left _ _ hpos, Nat.add_mul_mod_self_left, Nat.div_eq_of_lt hd, Nat.mod_eq_of_lt hd,
        if_neg (by omega)]
      push_cast
      ring_nf
    · have hd : d + 1 = 2 ^ F := by omega
      have hg : k * 2 ^ F + (2 ^ F + d + 1) = 2 ^ F * (k + 2) := by rw [add_assoc (2 ^ F), hd]; ring
      rw [hg, Nat.mul_div_cancel_left _ hpos, Nat.mul_mod_right, if_neg (by omega), add_assoc (2 ^ F), hd,
        show ((k + 2 : Nat) : Int) - (1 - E) = E + k + 1 by push_cast; ring, zpow_add_one₀ two_ne_zero]
      push_cast
      ring

theorem exists_binade (F g : Nat) : ∃ k s, g = k * 2 ^ F + s ∧ s < 2 ^ (F + 1) ∧ (k = 0 ∨ 2 ^ F ≤ s) := by
  have hpos : 0 < 2 ^ F := Nat.two_pow_pos F
  have h2 : 2 ^ (F + 1) = 2 * 2 ^ F := by ring
  have hm := Nat.mod_lt g hpos
  have hg := Nat.div_add_mod' g (2 ^ F)
  cases hq : g / 2 ^ F with
  | zero =>
    rw [hq] at hg
    exact ⟨0, g % 2 ^ F, hg.symm, by omega, .inl rfl⟩
  | succ k =>
    rw [hq, Nat.succ_mul] at hg
    exact ⟨k, 2 ^ F + g % 2 ^ F, by omega, by omega, .inr (by omega)⟩

theorem magVal_strictMono : StrictMono (magVal F E) := by
  refine strictMono_nat_of_lt_succ fun g => ?_
  obtain ⟨k, s, rfl, hs, hk⟩ := exists_binade F g
  rw [add_assoc, magVal_binade hs.le hk, magVal_binade (by omega) (by omega)]
  have hu : (0 : ℚ) < 2 ^ (E + k) := by positivity
  push_cast
  linarith

theorem magVal_zero : magVal F E 0 = 0 := by simp [magVal]

theorem magVal_nonneg (g : Nat) : 0 ≤ magVal F E g :=
  magVal_zero (F := F) (E := E) ▸ magVal_strictMono.monotone (Nat.zero_le g)

/-- A significand of at most `F + 1` bits at an exponent that is not below `E` is the value of a pattern. -/
theorem exists_magVal_eq (m k : Nat) (hm : m ≤ 2 ^ (F + 1)) : ∃ g, magVal F E g = m * 2 ^ (E + k) := by
  induction k generalizing m with
  | zero => exact ⟨0 * 2 ^ F + m, magVal_binade hm (.inl rfl)⟩
  | succ k ih =>
    rcases Nat.lt_or_ge m (2 ^ F) with hlt | hge
    · obtain ⟨g, hg⟩ := ih (2 * m) (by rw [pow_succ]; omega)
      refine ⟨g, hg.trans ?_⟩
      rw [show E + ((k + 1 : Nat) : Int) = E + k + 1 by push_cast; ring, zpow_add_one₀ two_ne_zero]
      push_cast
      ring
    · exact ⟨(k + 1) * 2 ^ F + m, magVal_binade hm (.inr hge)⟩

theorem magMid_between (g : Nat) : magVal F E g < magMid F E g ∧ magMid F E g < magVal F E (g + 1) := by
  have := magVal_strictMono (F := F) (E := E) (Nat.lt_succ_self g)
  unfold magMid
  constructor <;> linarith

theorem magMid_strictMono : StrictMono (magMid F E) :=
  strictMono_nat_of_lt_succ fun g => (magMid_between g).2.trans (magMid_between (g + 1)).1

/-! ### What rounding to a pattern implies -/

/-- The value of a pattern rounds to that pattern alone. -/
theorem RoundsTo.eq_of_magVal {g g' : Nat} (h : RoundsTo F E (magVal F E g) g') : g' = g := by
  obtain ⟨⟨hu, -⟩, hl⟩ := h
  rcases lt_trichotomy g' g with hlt | heq | hgt
  · have := magVal_strictMono.monotone (α := Nat) (f := magVal F E) (Nat.succ_le_of_lt hlt)
    linarith [(magMid_between (F := F) (E := E) g').2]
  · exact heq
  · obtain ⟨d, rfl⟩ := Nat.exists_eq_add_of_lt hgt
    have := magVal_strictMono.monotone (α := Nat) (f := magVal F E) (Nat.le_add_right g d)
    linarith [(hl _ rfl).1, (magMid_between (F := F) (E := E) (g + d)).1]

/-- No pattern is nearer, and one as near leaves the even one. -/
theorem RoundsTo.nearest {r : ℚ} {g : Nat} (h : RoundsTo F E r g) (g' : Nat) :
    |magVal F E g - r| ≤ |magVal F E g' - r| ∧
      (|magVal F E g - r| = |magVal F E g' - r| → g' ≠ g → g % 2 = 0) := by
  obtain ⟨⟨hu, hue⟩, hl⟩ := h
  rcases lt_trichotomy g' g with hlt | rfl | hgt
  · obtain ⟨d, rfl⟩ := Nat.exists_eq_add_of_lt hlt
    obtain ⟨hm, he⟩ := hl _ rfl
    have h1 := magVal_strictMono.monotone (α := Nat) (f := magVal F E) (Nat.le_add_right g' d)
    have h2 := magVal_strictMono (F := F) (E := E) (Nat.lt_succ_self (g' + d))
    unfold magMid at hm he
    have hd : |magVal F E (g' + d + 1) - r| ≤ r - magVal F E (g' + d) := abs_le.2 ⟨by linarith, by linarith⟩
    have hd' : |magVal F E g' - r| = r - magVal F E g' := by rw [abs_sub_comm, abs_of_nonneg (by linarith)]
    refine ⟨by linarith, fun e _ => he ?_⟩
    have hr : |magVal F E (g' + d + 1) - r| = r - magVal F E (g' + d) := by linarith
    rcases abs_cases (magVal F E (g' + d + 1) - r) with ⟨ha, -⟩ | ⟨ha, -⟩ <;> linarith
  · exact ⟨le_refl _, fun _ hne => absurd rfl hne⟩
  · obtain ⟨d, rfl⟩ := Nat.exists_eq_add_of_lt hgt
    have h1 := magVal_strictMono.monotone (α := Nat) (f := magVal F E) (show g + 1 ≤ g + d + 1 by omega)
    have h2 := magVal_strictMono (F := F) (E := E) (Nat.lt_succ_self g)
    unfold magMid at hu hue
    have hd : |magVal F E g - r| ≤ magVal F E (g + 1) - r := abs_le.2 ⟨by linarith, by linarith⟩
    have hd' : |magVal F E (g + d + 1) - r| = magVal F E (g + d + 1) - r := abs_of_nonneg (by linarith)
    refine ⟨by linarith, fun e _ => hue ?_⟩
    have hr : |magVal F E g - r| = magVal F E (g + 1) - r := by linarith
    rcases abs_cases (magVal F E g - r) with ⟨ha, -⟩ | ⟨ha, -⟩ <;> linarith

/-- From the midpoint below an odd pattern's successor on, rounding goes past the odd pattern. -/
theorem RoundsTo.lt_iff {r : ℚ} {g i : Nat} (h : RoundsTo F E r g) (hi : i % 2 = 1) : g ≤ i ↔ r < magMid F E i := by
  obtain ⟨⟨hu, hue⟩, hl⟩ := h
  constructor
  · intro hle
    rcases Nat.lt_or_eq_of_le hle with hlt | rfl
    · exact hu.trans_lt (magMid_strictMono hlt)
    · exact lt_of_le_of_ne hu fun e => by have := hue e; omega
  · intro hr
    by_contra hlt
    obtain ⟨d, rfl⟩ := Nat.exists_eq_add_of_lt (not_le.1 hlt)
    have := magMid_strictMono.monotone (α := Nat) (f := magMid F E) (Nat.le_add_right i d)
    linarith [(hl _ rfl).1]

/-! ### Rounding to a multiple of a power of two -/

/-- `s` is an integer nearest to `y / D`, the even one of two. -/
def NearestMultiple (y : ℚ) (D : ℚ) (s : Nat) : Prop :=
  (2 * y ≤ (2 * s + 1) * D ∧ (2 * y = (2 * s + 1) * D → s % 2 = 0)) ∧
  (2 * s * D ≤ 2 * y + D ∧ (2 * s * D = 2 * y + D → s % 2 = 0))

theorem nearestMultiple_exact {s : Nat} {D : ℚ} (hD : 0 < D) : NearestMultiple (s * D) D s :=
  ⟨⟨by linarith, fun h => by linarith⟩, ⟨by linarith, fun h => by linarith⟩⟩

theorem NearestMultiple.scale {y D c : ℚ} {s : Nat} (hc : 0 < c) (h : NearestMultiple y D s) :
    NearestMultiple (y * c) (D * c) s := by
  obtain ⟨⟨h1, h2⟩, ⟨h3, h4⟩⟩ := h
  refine ⟨⟨?_, fun e => h2 ?_⟩, ⟨?_, fun e => h4 ?_⟩⟩
  · nlinarith
  · exact mul_right_cancel₀ hc.ne' (by linarith)
  · nlinarith
  · exact mul_right_cancel₀ hc.ne' (by linarith)

/-- `roundShift m j` in whole numbers: the comparisons that make it the integer nearest to `m / 2^j`. -/
theorem roundShift_nat (m j : Nat) :
    (2 * m ≤ (2 * roundShift m j + 1) * 2 ^ j ∧ (2 * m = (2 * roundShift m j + 1) * 2 ^ j → roundShift m j % 2 = 0)) ∧
    (2 * roundShift m j * 2 ^ j ≤ 2 * m + 2 ^ j ∧
      (2 * roundShift m j * 2 ^ j = 2 * m + 2 ^ j → roundShift m j % 2 = 0)) := by
  have hm := Nat.div_add_mod' m (2 ^ j)
  have hlt := Nat.mod_lt m (Nat.two_pow_pos j)
  unfold roundShift
  dsimp only
  generalize 2 ^ j = D at *
  generalize m / D = q at *
  generalize m % D = r at *
  subst hm
  split
  next h =>
    have e1 : (2 * (q + 1) + 1) * D = 2 * (q * D) + 3 * D := by ring
    have e2 : 2 * (q + 1) * D = 2 * (q * D) + 2 * D := by ring
    rw [e1, e2]
    omega
  next h =>
    have e1 : (2 * q + 1) * D = 2 * (q * D) + D := by ring
    have e2 : 2 * q * D = 2 * (q * D) := by ring
    rw [e1, e2]
    omega

theorem nearestMultiple_roundShift (m j : Nat) : NearestMultiple m (2 ^ j) (roundShift m j) := by
  obtain ⟨⟨h1, h2⟩, ⟨h3, h4⟩⟩ := roundShift_nat m j
  exact ⟨⟨by exact_mod_cast h1, fun e => h2 (by exact_mod_cast e)⟩,
    ⟨by exact_mod_cast h3, fun e => h4 (by exact_mod_cast e)⟩⟩

/-- An odd `m` in place of a value between its neighbours: a rounding that drops two bits or more sees no difference. -/
theorem nearestMultiple_sticky {y : ℚ} {m j : Nat} (hm : m % 2 = 1) (h1 : (m : ℚ) - 1 < y) (h2 : y < m + 1) :
    NearestMultiple y (2 ^ (j + 2)) (roundShift m (j + 2)) := by
  obtain ⟨⟨hu, -⟩, ⟨hl, -⟩⟩ := roundShift_nat m (j + 2)
  generalize roundShift m (j + 2) = s at *
  have e1 : (2 * s + 1) * 2 ^ (j + 2) = 4 * ((2 * s + 1) * 2 ^ j) := by ring
  have e2 : 2 * s * 2 ^ (j + 2) = 4 * (2 * s * 2 ^ j) := by ring
  have e3 : 2 ^ (j + 2) = 4 * 2 ^ j := by ring
  have hu' : (m : ℚ) + 1 ≤ 2 * ((2 * s + 1) * 2 ^ j) := by
    exact_mod_cast (by omega : m + 1 ≤ 2 * ((2 * s + 1) * 2 ^ j))
  have hl' : 2 * (2 * (s : ℚ) * 2 ^ j) + 1 ≤ m + 2 * 2 ^ j := by
    exact_mod_cast (by omega : 2 * (2 * s * 2 ^ j) + 1 ≤ m + 2 * 2 ^ j)
  have c1 : (2 * (s : ℚ) + 1) * 2 ^ (j + 2) = 4 * ((2 * s + 1) * 2 ^ j) := by ring
  have c2 : 2 * (s : ℚ) * 2 ^ (j + 2) = 4 * (2 * s * 2 ^ j) := by ring
  have c3 : (2 : ℚ) ^ (j + 2) = 4 * 2 ^ j := by ring
  refine ⟨⟨?_, fun e => ?_⟩, ⟨?_, fun e => ?_⟩⟩ <;> linarith

/-- Rounding within the binade of `r` is rounding to the format. -/
theorem roundsTo_of_nearestMultiple {r : ℚ} {k s : Nat} (hF : 1 ≤ F) (hn : NearestMultiple r (2 ^ (E + k)) s)
    (hlt : r < 2 ^ (F + 1) * 2 ^ (E + k)) (hk : k = 0 ∨ 2 ^ F * 2 ^ (E + k) ≤ r) :
    RoundsTo F E r (k * 2 ^ F + s) := by
  have hu : (0 : ℚ) < 2 ^ (E + k) := by positivity
  obtain ⟨⟨hu1, hu2⟩, ⟨hl1, hl2⟩⟩ := hn
  generalize hU : (2 : ℚ) ^ (E + k) = u at *
  have h2 : 2 ^ (F + 1) = 2 * 2 ^ F := by ring
  have hs : s ≤ 2 ^ (F + 1) := by
    have h : (2 * s : ℚ) < 2 * 2 ^ (F + 1) + 1 := lt_of_mul_lt_mul_right (by linarith) hu.le
    have h : 2 * s < 2 * 2 ^ (F + 1) + 1 := by exact_mod_cast h
    omega
  have hks : k = 0 ∨ 2 ^ F ≤ s := hk.imp_right fun hr => by
    have h : (2 * 2 ^ F : ℚ) ≤ 2 * s + 1 := le_of_mul_le_mul_right (by linarith) hu
    have h : 2 * 2 ^ F ≤ 2 * s + 1 := by exact_mod_cast h
    omega
  have hpar : (k * 2 ^ F + s) % 2 = s % 2 := by
    obtain ⟨F', rfl⟩ := Nat.exists_eq_add_of_le' hF
    rw [pow_succ, ← mul_assoc, Nat.mul_add_mod_self_right]
  have hv : magVal F E (k * 2 ^ F + s) = s * u := by rw [magVal_binade hs hks, hU]
  rw [RoundsTo, hpar]
  constructor
  · have hnext : (s + 1) * u ≤ magVal F E (k * 2 ^ F + s + 1) := by
      rcases Nat.lt_or_eq_of_le hs with hlt' | heq
      · rw [add_assoc, magVal_binade hlt' (by omega), hU]
        push_cast
        exact le_refl _
      · have hpos := Nat.two_pow_pos F
        rw [heq, show k * 2 ^ F + 2 ^ (F + 1) + 1 = (k + 1) * 2 ^ F + (2 ^ F + 1) by ring,
          magVal_binade (by omega) (by omega), show E + ((k + 1 : Nat) : Int) = E + k + 1 by push_cast; ring,
          zpow_add_one₀ two_ne_zero, hU]
        push_cast
        linarith [show ((2 : ℚ) ^ (F + 1)) * u = 2 * (2 ^ F * u) by ring]
    unfold magMid
    rw [hv]
    exact ⟨by linarith, fun e => hu2 (by linarith)⟩
  · intro h hg
    by_cases hc : k ≠ 0 ∧ s = 2 ^ F
    · have hr := hk.resolve_left hc.1
      have hb := (magMid_between (F := F) (E := E) h).2
      rw [← hg, hv, hc.2] at hb
      push_cast at hb
      exact ⟨by linarith, fun e => by linarith⟩
    · have hpos := Nat.two_pow_pos F
      obtain ⟨s, rfl⟩ := Nat.exists_eq_add_of_le' (show 1 ≤ s by rcases hks with rfl | _ <;> omega)
      obtain rfl : h = k * 2 ^ F + s := by omega
      have hb : magVal F E (k * 2 ^ F + s) = s * u := by rw [magVal_binade (by omega) (by omega), hU]
      unfold magMid
      rw [add_assoc, hv, hb]
      push_cast at *
      exact ⟨by linarith, fun e => hl2 (by linarith)⟩

/-! ### The model's `roundMag` -/

/-- `m · 2^e` stands for `r` when it is rounded to `F` fraction bits: it is `r`, or it is the odd one of three neighbours with
enough bits, and `r` lies between the other two (the last bit that `fpDiv` adds for a remainder). -/
def StandsFor (F : Nat) (r : ℚ) (m : Nat) (e : Int) : Prop :=
  r = m * 2 ^ e ∨ (m % 2 = 1 ∧ 2 ^ (F + 2) ≤ m ∧ ((m : ℚ) - 1) * 2 ^ e < r ∧ r < (m + 1) * 2 ^ e)

/-- The binade that `roundMag` chooses contains what `m · 2^e` stands for. -/
theorem StandsFor.bounds {r : ℚ} {m : Nat} {e : Int} (h : StandsFor F r m e) (hm : m ≠ 0) :
    (2 : ℚ) ^ (e + m.log2) ≤ r ∧ r < 2 ^ (e + m.log2 + 1) := by
  have hlo := Nat.log2_self_le hm
  have hhi := Nat.lt_log2_self (n := m)
  have hu : (0 : ℚ) < 2 ^ e := by positivity
  have e1 : (2 : ℚ) ^ (e + m.log2) = 2 ^ m.log2 * 2 ^ e := by
    rw [zpow_add₀ two_ne_zero, zpow_natCast, mul_comm]
  have e2 : (2 : ℚ) ^ (e + m.log2 + 1) = 2 ^ (m.log2 + 1) * 2 ^ e := by
    rw [add_assoc, zpow_add₀ two_ne_zero, mul_comm]
    congr 1
  rw [e1, e2]
  rcases h with rfl | ⟨hodd, hbig, h1, h2⟩
  · have hlo' : (2 : ℚ) ^ m.log2 ≤ m := by exact_mod_cast hlo
    have hhi' : (m : ℚ) < 2 ^ (m.log2 + 1) := by exact_mod_cast hhi
    exact ⟨by nlinarith, by nlinarith⟩
  · have hl : 1 ≤ m.log2 := (Nat.le_log2 hm).2 (le_trans (Nat.pow_le_pow_right (by decide) (by omega)) hbig)
    obtain ⟨l, hl'⟩ := Nat.exists_eq_add_of_le' hl
    rw [hl'] at hlo hhi ⊢
    have p1 : 2 ^ (l + 1) = 2 * 2 ^ l := by ring
    have p2 : 2 ^ (l + 1 + 1) = 2 * 2 ^ (l + 1) := by ring
    have hlo' : (2 : ℚ) ^ (l + 1) ≤ m - 1 := by
      have : 2 ^ (l + 1) + 1 ≤ m := by omega
      have : ((2 ^ (l + 1) + 1 : Nat) : ℚ) ≤ m := by exact_mod_cast this
      push_cast at this
      linarith
    have hhi' : (m : ℚ) + 1 ≤ 2 ^ (l + 1 + 1) := by exact_mod_cast (by omega : m + 1 ≤ 2 ^ (l + 1 + 1))
    exact ⟨by nlinarith, by nlinarith⟩

theorem StandsFor.nonneg {r : ℚ} {m : Nat} {e : Int} (h : StandsFor F r m e) : 0 ≤ r := by
  have hu : (0 : ℚ) < 2 ^ e := by positivity
  rcases h with rfl | ⟨hodd, -, h1, -⟩
  · positivity
  · have : (1 : ℚ) ≤ m := by exact_mod_cast (by omega : 1 ≤ m)
    exact (mul_nonneg (by linarith) hu.le).trans h1.le

/-- `roundMag` rounds to the nearest pattern, and cuts off at the infinity pattern. -/
theorem roundMag_roundsTo {r : ℚ} {m : Nat} {e : Int} (hF : 1 ≤ F) (h : StandsFor F r m e) (inf : Nat) :
    ∃ g, RoundsTo F E r g ∧ roundMag F E inf m e = min inf g := by
  by_cases hm : m = 0
  · subst hm
    have hr : r = magVal F E 0 := by
      rcases h with rfl | ⟨hodd, -⟩
      · simp [magVal_zero]
      · omega
    refine ⟨0, ⟨⟨?_, fun _ => rfl⟩, nofun⟩, ?_⟩
    · exact hr ▸ (magMid_between 0).1.le
    · rw [roundMag_zero, Nat.min_zero]
  · obtain ⟨hlo, hhi⟩ := h.bounds hm
    generalize hq : max (e + m.log2 - F) E = q
    have hE : E + ((q - E).toNat : Int) = q := by omega
    refine ⟨(q - E).toNat * 2 ^ F + (if q ≤ e then scaleTo m e q else roundShift m (q - e).toNat), ?_, ?_⟩
    · refine roundsTo_of_nearestMultiple hF ?_ ?_ ?_
      · rw [hE]
        by_cases hqe : q ≤ e
        · have hr : r = m * 2 ^ e := h.resolve_right fun ⟨_, hbig, _⟩ => by
            have := (Nat.le_log2 hm).2 hbig
            omega
          rw [if_pos hqe, scaleTo]
          have : r = ((m * 2 ^ (e - q).toNat : Nat) : ℚ) * 2 ^ q := by
            push_cast
            rw [hr, mul_assoc, ← zpow_natCast, ← zpow_add₀ two_ne_zero, show ((e - q).toNat : Int) + q = e by omega]
          rw [this]
          exact nearestMultiple_exact (by positivity)
        · rw [if_neg hqe]
          have hu : (0 : ℚ) < 2 ^ e := by positivity
          have hD : (2 : ℚ) ^ q = 2 ^ (q - e).toNat * 2 ^ e := by
            rw [← zpow_natCast, ← zpow_add₀ two_ne_zero, show ((q - e).toNat : Int) + e = q by omega]
          rw [hD]
          rcases h with rfl | ⟨hodd, hbig, h1, h2⟩
          · exact (nearestMultiple_roundShift m _).scale hu
          · have := (Nat.le_log2 hm).2 hbig
            obtain ⟨j, hj⟩ := Nat.exists_eq_add_of_le' (show 2 ≤ (q - e).toNat by omega)
            rw [hj, show r = r / 2 ^ e * 2 ^ e by field_simp]
            exact (nearestMultiple_sticky hodd (by rwa [lt_div_iff₀ hu]) (by rwa [div_lt_iff₀ hu])).scale hu
      · rw [hE, ← zpow_natCast, ← zpow_add₀ two_ne_zero]
        exact hhi.trans_le (zpow_le_zpow_right₀ one_le_two (by push_cast; omega))
      · rw [hE, ← zpow_natCast, ← zpow_add₀ two_ne_zero]
        by_cases hk : (q - E).toNat = 0
        · exact .inl hk
        · refine .inr (hlo.trans' (zpow_le_zpow_right₀ one_le_two (by omega)))
    · subst hq
      simp only [roundMag, if_neg hm]

end

end Sys2Proof.Machine
end

section
/-! PROOFS. binary32 and binary64 as two cases of one format, so that what R13 and R21 say is proved once for both: patterns,
data, rounding, comparisons, and the results at infinities and zeros. -/

namespace Sys2Proof.Machine

/-! ### One format -/

/-- What a format of width `w` fixes: its fraction bits, the exponent of its least subnormal, the bits to which its quotients
are formed before they are rounded, and the patterns its NaN results take. -/
structure Fmt (w : Nat) where
  frac    : Nat
  emin    : Int
  bits    : Nat
  nanPat  : FpOp → Nat → Nat → BitVec w
  one_le  : 1 ≤ frac
  lt      : frac + 2 < w
  bits_le : frac + 2 ≤ bits
  nanPat_nan : ∀ op a b, 2 ^ (w - 1) - 2 ^ frac < (nanPat op a b).toNat % 2 ^ (w - 1)

namespace Fmt
variable {w : Nat}

/-- The magnitude pattern of the infinities. -/
def inf (f : Fmt w) : Nat := 2 ^ (w - 1) - 2 ^ f.frac

/-- The bits below the sign. -/
def mag (x : BitVec w) : Nat := x.toNat % 2 ^ (w - 1)

/-- The sign bit. -/
def neg (x : BitVec w) : Bool := decide (2 ^ (w - 1) ≤ x.toNat)

/-- A pattern from its sign and magnitude bits. -/
def make (w : Nat) (s : Bool) (g : Nat) : BitVec w := BitVec.ofNat w ((if s then 2 ^ (w - 1) else 0) + g)

def unpack (f : Fmt w) (x : BitVec w) : Fp :=
  if f.inf < mag x then .nan
  else if mag x = f.inf then .inf (neg x)
  else if mag x / 2 ^ f.frac = 0 then .fin (neg x) (mag x % 2 ^ f.frac) f.emin
  else .fin (neg x) (mag x % 2 ^ f.frac + 2 ^ f.frac) (((mag x / 2 ^ f.frac : Nat) : Int) - (1 - f.emin))

def pack (f : Fmt w) (nan : BitVec w) : Fp → BitVec w
  | .nan => nan
  | .inf s => make w s f.inf
  | .fin s m e => make w s (roundMag f.frac f.emin f.inf m e)

/-- The format with its four operations, in the terms of the claims. -/
def ieee (f : Fmt w) : FpFormat w where
  val x := (f.unpack x).val
  finite x := decide (mag x < f.inf)
  nan x := decide (f.inf < mag x)
  inf := BitVec.ofNat w f.inf
  add a b := f.pack (f.nanPat .add a.toNat b.toNat) (fpAdd (f.unpack a) (f.unpack b))
  sub a b := f.pack (f.nanPat .sub a.toNat b.toNat) (fpAdd (f.unpack a) (fpNeg (f.unpack b)))
  mul a b := f.pack (f.nanPat .mul a.toNat b.toNat) (fpMul (f.unpack a) (f.unpack b))
  div a b := f.pack (f.nanPat .div a.toNat b.toNat) (fpDiv f.bits (f.unpack a) (f.unpack b))

/-- The order key of a pattern that is not a NaN. -/
def key (x : BitVec w) : Int := signed (neg x) (mag x)

def ltb (f : Fmt w) (a b : BitVec w) : Bool := !f.ieee.nan a && !f.ieee.nan b && decide (key a < key b)
def leb (f : Fmt w) (a b : BitVec w) : Bool := !f.ieee.nan a && !f.ieee.nan b && decide (key a ≤ key b)

end Fmt

/-! ### The two formats of the model -/

theorem nan32_mag (op : FpOp) (a b : Nat) : 2 ^ (32 - 1) - 2 ^ 23 < (nan32 op a b).toNat % 2 ^ (32 - 1) :=
  of_decide_eq_true (isNaN32_nan32 op a b)

theorem nan64_mag (op : FpOp) (a b : Nat) : 2 ^ (64 - 1) - 2 ^ 52 < (nan64 op a b).toNat % 2 ^ (64 - 1) :=
  of_decide_eq_true (isNaN64_nan64 op a b)

def fmt32 : Fmt 32 := ⟨23, -149, 27, nan32, by decide, by decide, by decide, nan32_mag⟩
def fmt64 : Fmt 64 := ⟨52, -1074, 56, nan64, by decide, by decide, by decide, nan64_mag⟩

theorem unpack32_eq : unpack32 = fmt32.unpack := rfl
theorem unpack64_eq : unpack64 = fmt64.unpack := rfl

theorem pack32_eq : pack32 = fmt32.pack := by
  funext n v
  cases v <;> rfl

theorem pack64_eq : pack64 = fmt64.pack := by
  funext n v
  cases v <;> rfl

theorem binary32_eq : binary32 = fmt32.ieee := by
  unfold binary32 f32Add f32Sub f32Mul f32Div
  rw [pack32_eq]
  rfl

theorem binary64_eq : binary64 = fmt64.ieee := by
  unfold binary64 f64Add f64Sub f64Mul f64Div
  rw [pack64_eq]
  rfl

theorem f32Lt_eq : f32Lt = fmt32.ltb := rfl
theorem f32Le_eq : f32Le = fmt32.leb := rfl
theorem f64Lt_eq : f64Lt = fmt64.ltb := rfl

/-! ### Patterns -/

namespace Fmt
variable {w : Nat}

theorem two_pow_width (f : Fmt w) : 2 ^ w = 2 * 2 ^ (w - 1) := by
  have := f.lt
  rw [← pow_succ', Nat.sub_add_cancel (by omega)]

/-- The infinity pattern is the last of the binade below it. -/
theorem inf_eq (f : Fmt w) : f.inf = (2 ^ (w - 1 - f.frac) - 3) * 2 ^ f.frac + 2 ^ (f.frac + 1) := by
  have := f.lt
  have h4 : 2 ^ 2 ≤ 2 ^ (w - 1 - f.frac) := Nat.pow_le_pow_right (by decide) (by omega)
  have hw : 2 ^ (w - 1) = 2 ^ (w - 1 - f.frac) * 2 ^ f.frac := by rw [← pow_add, Nat.sub_add_cancel (by omega)]
  obtain ⟨n, hn⟩ := Nat.exists_eq_add_of_le' h4
  rw [inf, hw, hn, show n + 2 ^ 2 - 3 = n + 1 by omega]
  have : (n + 2 ^ 2) * 2 ^ f.frac = (n + 1) * 2 ^ f.frac + 2 ^ (f.frac + 1) + 2 ^ f.frac := by ring
  omega

theorem inf_lt (f : Fmt w) : f.inf < 2 ^ (w - 1) := Nat.sub_lt (Nat.two_pow_pos _) (Nat.two_pow_pos _)

theorem inf_pos (f : Fmt w) : 0 < f.inf := by
  rw [f.inf_eq]
  positivity

/-- The largest finite pattern is odd. -/
theorem inf_sub_one_odd (f : Fmt w) : (f.inf - 1) % 2 = 1 := by
  have hp := f.inf_pos
  obtain ⟨n, hn⟩ := Nat.exists_eq_add_of_le' f.one_le
  have : f.inf = 2 * ((2 ^ (w - 1 - f.frac) - 3) * 2 ^ n + 2 ^ (n + 1)) := by
    rw [f.inf_eq, hn]
    ring
  omega

theorem mag_lt (x : BitVec w) : mag x < 2 ^ (w - 1) := Nat.mod_lt _ (Nat.two_pow_pos _)

theorem make_toNat (f : Fmt w) (s : Bool) {g : Nat} (hg : g < 2 ^ (w - 1)) :
    (make w s g).toNat = (if s then 2 ^ (w - 1) else 0) + g := by
  have := f.two_pow_width
  rw [make, BitVec.toNat_ofNat, Nat.mod_eq_of_lt]
  split <;> omega

/-- The sign bit is not the last one. -/
theorem make_toNat_mod_two (f : Fmt w) (s : Bool) {g : Nat} (hg : g < 2 ^ (w - 1)) :
    (make w s g).toNat % 2 = g % 2 := by
  have := f.lt
  obtain ⟨v, hv⟩ := Nat.exists_eq_add_of_le' (show 1 ≤ w - 1 by omega)
  have h2 : 2 ^ (w - 1) % 2 = 0 := by
    rw [hv, pow_succ]
    omega
  rw [f.make_toNat s hg]
  split <;> omega

theorem mag_make (f : Fmt w) (s : Bool) {g : Nat} (hg : g < 2 ^ (w - 1)) : mag (make w s g) = g := by
  rw [mag, f.make_toNat s hg]
  cases s <;> simp [Nat.mod_eq_of_lt hg]

theorem neg_make (f : Fmt w) (s : Bool) {g : Nat} (hg : g < 2 ^ (w - 1)) : neg (make w s g) = s := by
  rw [neg, f.make_toNat s hg]
  cases s <;> simp [hg]

theorem make_neg_mag (f : Fmt w) (x : BitVec w) : make w (neg x) (mag x) = x := by
  have := f.two_pow_width
  have hx := x.isLt
  apply BitVec.eq_of_toNat_eq
  rw [f.make_toNat _ (mag_lt x), neg, mag]
  rcases Nat.lt_or_ge x.toNat (2 ^ (w - 1)) with h | h
  · simp [Nat.mod_eq_of_lt h, Nat.not_le.2 h]
  · rw [Nat.mod_eq_sub_mod h, Nat.mod_eq_of_lt (by omega)]
    simp [h]

theorem eq_make (f : Fmt w) {x : BitVec w} {g : Nat} (h : mag x = g) : x = make w (neg x) g :=
  h ▸ (f.make_neg_mag x).symm

theorem neg_eq_msb (x : BitVec w) : neg x = x.msb := (BitVec.msb_eq_decide x).symm

theorem msb_make (f : Fmt w) (s : Bool) {g : Nat} (hg : g < 2 ^ (w - 1)) : (make w s g).msb = s := by
  rw [← neg_eq_msb, f.neg_make s hg]

/-- The sign bit on a magnitude, as the claims write it. -/
theorem withSign_ofNat (f : Fmt w) (s : Bool) {g : Nat} (hg : g < 2 ^ (w - 1)) :
    withSign s (BitVec.ofNat w g) = make w s g := by
  have := f.two_pow_width
  have := f.lt
  apply BitVec.eq_of_toNat_eq
  rw [f.make_toNat s hg]
  cases s with
  | false => simp [withSign, Nat.mod_eq_of_lt (show g < 2 ^ w by omega)]
  | true =>
    simp only [withSign, if_true, BitVec.toNat_or, BitVec.toNat_ofNat, BitVec.toNat_twoPow]
    rw [Nat.mod_eq_of_lt (show g < 2 ^ w by omega), Nat.mod_eq_of_lt (show 2 ^ (w - 1) < 2 ^ w by omega), Nat.or_comm]
    simpa using (Nat.two_pow_add_eq_or_of_lt hg 1).symm

theorem withSign_inf (f : Fmt w) (s : Bool) : withSign s f.ieee.inf = make w s f.inf := f.withSign_ofNat s f.inf_lt

theorem withSign_zero (f : Fmt w) (s : Bool) : withSign s 0 = make w s 0 := f.withSign_ofNat s (Nat.two_pow_pos _)

theorem isSigned_ofNat (f : Fmt w) {x : BitVec w} {g : Nat} (hg : g < 2 ^ (w - 1)) :
    IsSigned (BitVec.ofNat w g) x ↔ mag x = g := by
  rw [IsSigned, ← neg_eq_msb, f.withSign_ofNat _ hg]
  refine ⟨fun h => ?_, fun h => f.eq_make h⟩
  rw [h, f.mag_make _ hg]

theorem isSigned_inf (f : Fmt w) (x : BitVec w) : IsSigned f.ieee.inf x ↔ mag x = f.inf := f.isSigned_ofNat f.inf_lt

theorem isSigned_zero (f : Fmt w) (x : BitVec w) : IsSigned 0 x ↔ mag x = 0 := f.isSigned_ofNat (Nat.two_pow_pos _)

theorem nan_eq_false (f : Fmt w) (x : BitVec w) : f.ieee.nan x = false ↔ mag x ≤ f.inf := by
  rw [← not_lt]
  exact decide_eq_false_iff_not

theorem finite_iff (f : Fmt w) (x : BitVec w) : f.ieee.finite x = true ↔ mag x < f.inf := decide_eq_true_iff

end Fmt

/-! ### Data -/

/-- The sign as a factor. -/
def sgn (s : Bool) : ℚ := if s then -1 else 1

theorem sgn_not (s : Bool) : sgn (!s) = -sgn s := by cases s <;> simp [sgn]
theorem sgn_bne (s t : Bool) : sgn (s != t) = sgn s * sgn t := by cases s <;> cases t <;> simp [sgn]
theorem sgn_bne_div (s t : Bool) : sgn (s != t) = sgn s / sgn t := by cases s <;> cases t <;> simp [sgn]
theorem abs_sgn_mul (s : Bool) (x : ℚ) : |sgn s * x| = |x| := by cases s <;> simp [sgn]

/-- A pattern that rounds `r ≥ 0` is, with either sign, nearest to `r` of that sign among the patterns of both. -/
theorem RoundsTo.nearest_signed {F : Nat} {E : Int} {r : ℚ} {g : Nat} (h : RoundsTo F E r g) (hr : 0 ≤ r) (s s' : Bool)
    (g' : Nat) :
    |sgn s * magVal F E g - sgn s * r| ≤ |sgn s' * magVal F E g' - sgn s * r| ∧
      (|sgn s * magVal F E g - sgn s * r| = |sgn s' * magVal F E g' - sgn s * r| →
        sgn s' * magVal F E g' ≠ sgn s * magVal F E g → g % 2 = 0) := by
  obtain ⟨hle, heq⟩ := h.nearest g'
  have hg := magVal_nonneg (F := F) (E := E) g
  have hg' := magVal_nonneg (F := F) (E := E) g'
  rw [← mul_sub, abs_sgn_mul]
  by_cases hs : s' = s
  · subst hs
    rw [← mul_sub, abs_sgn_mul]
    exact ⟨hle, fun e hne => heq e fun hgg => hne (by rw [hgg])⟩
  · obtain rfl : s' = !s := Bool.eq_not.2 hs
    have hopp : |sgn (!s) * magVal F E g' - sgn s * r| = magVal F E g' + r := by
      rw [sgn_not, show -sgn s * magVal F E g' - sgn s * r = sgn s * -(magVal F E g' + r) by ring, abs_sgn_mul, abs_neg,
        abs_of_nonneg (by linarith)]
    have htri : |magVal F E g' - r| ≤ magVal F E g' + r := abs_le.2 ⟨by linarith, by linarith⟩
    rw [hopp]
    refine ⟨hle.trans htri, fun e hne => ?_⟩
    by_cases hgg : g' = g
    · subst hgg
      have hz : magVal F E g' = 0 ∨ r = 0 := by
        rcases abs_cases (magVal F E g' - r) with ⟨ha, -⟩ | ⟨ha, -⟩
        · exact .inr (by linarith)
        · exact .inl (by linarith)
      rcases hz with hz | hz
      · exact absurd (by rw [hz, mul_zero, mul_zero]) hne
      · rw [hz, ← magVal_zero (F := F) (E := E)] at h
        rw [h.eq_of_magVal]
    · exact heq (le_antisymm hle (htri.trans e.ge)) hgg

theorem Fp.val_fin (s : Bool) (m : Nat) (e : Int) : (Fp.fin s m e).val = sgn s * (m * 2 ^ e) := mul_assoc ..

namespace Fmt
variable {w : Nat}

theorem unpack_inf (f : Fmt w) {x : BitVec w} (h : mag x = f.inf) : f.unpack x = .inf (neg x) := by
  rw [unpack, if_neg h.not_gt, if_pos h]

theorem unpack_fin (f : Fmt w) {x : BitVec w} (h : mag x < f.inf) :
    ∃ m e, f.unpack x = .fin (neg x) m e ∧ (m : ℚ) * 2 ^ e = magVal f.frac f.emin (mag x) := by
  rw [unpack, if_neg h.not_gt, if_neg h.ne]
  unfold magVal
  split
  next h0 => exact ⟨_, _, rfl, rfl⟩
  next h0 => exact ⟨_, _, rfl, rfl⟩

theorem val_eq (f : Fmt w) {x : BitVec w} (h : mag x < f.inf) :
    f.ieee.val x = sgn (neg x) * magVal f.frac f.emin (mag x) := by
  obtain ⟨m, e, hu, hv⟩ := f.unpack_fin h
  show (f.unpack x).val = _
  rw [hu, Fp.val_fin, hv]

theorem val_make (f : Fmt w) (s : Bool) {g : Nat} (h : g < f.inf) :
    f.ieee.val (make w s g) = sgn s * magVal f.frac f.emin g := by
  have hg := h.trans f.inf_lt
  rw [f.val_eq (by rwa [f.mag_make s hg]), f.mag_make s hg, f.neg_make s hg]

/-- A finite significand is 0 exactly for a zero of either sign. -/
theorem significand_eq_zero {F : Nat} {E e : Int} {m g : Nat} (h : (m : ℚ) * 2 ^ e = magVal F E g) : m = 0 ↔ g = 0 := by
  have hu : (2 : ℚ) ^ e ≠ 0 := by positivity
  rw [← Nat.cast_eq_zero (R := ℚ), ← magVal_strictMono.injective.eq_iff (f := magVal F E), magVal_zero, ← h, mul_eq_zero,
    or_iff_left hu]

theorem nan_pack_nan (f : Fmt w) (op : FpOp) (a b : Nat) : f.ieee.nan (f.pack (f.nanPat op a b) .nan) = true :=
  decide_eq_true (f.nanPat_nan op a b)

theorem pack_zero (f : Fmt w) (n : BitVec w) (s : Bool) (e : Int) : f.pack n (.fin s 0 e) = make w s 0 := rfl

/-! ### Rounding -/

/-- `NearestEven32` and `NearestEven64`. -/
def NearestEven (f : Fmt w) (r : ℚ) (y : BitVec w) : Prop :=
  f.ieee.finite y = true ∧
  ∀ z, f.ieee.finite z = true →
    |f.ieee.val y - r| ≤ |f.ieee.val z - r| ∧
      (|f.ieee.val y - r| = |f.ieee.val z - r| → f.ieee.val z ≠ f.ieee.val y → y.toNat % 2 = 0)

/-- The midpoint past the largest finite value. -/
def bound (f : Fmt w) : ℚ := magMid f.frac f.emin (f.inf - 1)

/-- `Rounds32` and `Rounds64`. -/
def Rounds (f : Fmt w) (r : ℚ) (y : BitVec w) : Prop :=
  (|r| < f.bound → f.NearestEven r y) ∧ (f.bound ≤ r → y = make w false f.inf) ∧ (r ≤ -f.bound → y = make w true f.inf)

theorem bound_eq (f : Fmt w) :
    f.bound = (2 ^ (f.frac + 1) - 1 / 2) * 2 ^ (f.emin + ((2 ^ (w - 1 - f.frac) - 3 : Nat) : Int)) := by
  have h1 := Nat.two_pow_pos (f.frac + 1)
  have h2 : 2 ^ (f.frac + 1) = 2 * 2 ^ f.frac := by ring
  have hs : f.inf - 1 = (2 ^ (w - 1 - f.frac) - 3) * 2 ^ f.frac + (2 ^ (f.frac + 1) - 1) := by
    rw [f.inf_eq]
    omega
  have hi : f.inf - 1 + 1 = (2 ^ (w - 1 - f.frac) - 3) * 2 ^ f.frac + 2 ^ (f.frac + 1) := by
    rw [Nat.sub_add_cancel f.inf_pos, f.inf_eq]
  rw [bound, magMid, hi, hs, magVal_binade (Nat.sub_le _ _) (.inr (by omega)), magVal_binade le_rfl (.inr (by omega)),
    Nat.cast_sub h1]
  push_cast
  ring

theorem bound_pos (f : Fmt w) : 0 < f.bound := (magVal_nonneg _).trans_lt (magMid_between _).1

/-- Packing rounds correctly what its datum stands for (R13(a), (b), (f)). -/
theorem pack_rounds (f : Fmt w) (n : BitVec w) (s : Bool) {m : Nat} {e : Int} {r : ℚ} (h : StandsFor f.frac r m e) :
    f.Rounds (sgn s * r) (f.pack n (.fin s m e)) := by
  obtain ⟨g, hg, he⟩ := roundMag_roundsTo (E := f.emin) f.one_le h f.inf
  have hr := h.nonneg
  have hb := f.bound_pos
  have hlt : g ≤ f.inf - 1 ↔ r < f.bound := hg.lt_iff f.inf_sub_one_odd
  have hpos := f.inf_pos
  have hy : f.pack n (.fin s m e) = make w s (min f.inf g) := by rw [pack, he]
  rw [hy]
  refine ⟨fun hlow => ?_, fun hhigh => ?_, fun hhigh => ?_⟩
  · rw [abs_sgn_mul, abs_of_nonneg hr] at hlow
    have hgi : g < f.inf := by have := hlt.2 hlow; omega
    rw [min_eq_right hgi.le]
    refine ⟨(f.finite_iff _).2 (by rwa [f.mag_make s (hgi.trans f.inf_lt)]), fun z hz => ?_⟩
    rw [f.val_make s hgi, f.val_eq ((f.finite_iff z).1 hz)]
    obtain ⟨hle, heq⟩ := hg.nearest_signed hr s (neg z) (mag z)
    refine ⟨hle, fun e1 e2 => ?_⟩
    rw [f.make_toNat_mod_two s (hgi.trans f.inf_lt), heq e1 e2]
  · have hs : s = false ∧ f.bound ≤ r := by cases s <;> simp [sgn] at hhigh ⊢ <;> linarith
    have hgi : ¬ g ≤ f.inf - 1 := fun hle => absurd (hlt.1 hle) (not_lt.2 hs.2)
    rw [hs.1, min_eq_left (by omega)]
  · have hs : s = true ∧ f.bound ≤ r := by cases s <;> simp [sgn] at hhigh ⊢ <;> linarith
    have hgi : ¬ g ≤ f.inf - 1 := fun hle => absurd (hlt.1 hle) (not_lt.2 hs.2)
    rw [hs.1, min_eq_left (by omega)]

/-- A datum whose value is that of a finite pattern packs to that pattern. -/
theorem pack_exact (f : Fmt w) (n : BitVec w) (s : Bool) {m g : Nat} {e : Int}
    (h : (m : ℚ) * 2 ^ e = magVal f.frac f.emin g) (hg : g ≤ f.inf) : f.pack n (.fin s m e) = make w s g := by
  obtain ⟨g', hg', he⟩ := roundMag_roundsTo (E := f.emin) f.one_le (.inl rfl : StandsFor f.frac (m * 2 ^ e) m e) f.inf
  rw [h] at hg'
  rw [pack, he, hg'.eq_of_magVal, min_eq_right hg]

end Fmt

/-! ### Exact operations on finite data -/

theorem signed_cast (s : Bool) (m : Nat) : ((signed s m : Int) : ℚ) = sgn s * m := by cases s <;> simp [signed, sgn]

theorem scaleTo_mul {m : Nat} {e lo : Int} (h : lo ≤ e) : (scaleTo m e lo : ℚ) * 2 ^ lo = m * 2 ^ e := by
  rw [scaleTo]
  push_cast
  rw [mul_assoc, ← zpow_natCast, ← zpow_add₀ two_ne_zero, show ((e - lo).toNat : Int) + lo = e by omega]

/-- The exact sum, and the sign of an exact zero. -/
theorem fpAdd_fin (s t : Bool) (m n : Nat) (e d : Int) :
    ∃ u k l, fpAdd (.fin s m e) (.fin t n d) = .fin u k l ∧
      (Fp.fin u k l).val = (Fp.fin s m e).val + (Fp.fin t n d).val ∧
      ((Fp.fin s m e).val + (Fp.fin t n d).val = 0 → u = (s && t) ∧ k = 0) := by
  generalize hv : signed s (scaleTo m e (min e d)) + signed t (scaleTo n d (min e d)) = v
  have hu : (2 : ℚ) ^ min e d ≠ 0 := by positivity
  have hval : (v : ℚ) * 2 ^ min e d = (Fp.fin s m e).val + (Fp.fin t n d).val := by
    rw [← hv]
    push_cast
    rw [signed_cast, signed_cast, add_mul, mul_assoc, mul_assoc, scaleTo_mul (min_le_left e d),
      scaleTo_mul (min_le_right e d), Fp.val_fin, Fp.val_fin]
  by_cases h0 : v = 0
  · refine ⟨s && t, 0, min e d, ?_, ?_, fun _ => ⟨rfl, rfl⟩⟩
    · simp only [fpAdd, hv, if_pos h0]
    · rw [← hval, h0, Fp.val_fin]
      simp
  · refine ⟨decide (v < 0), v.natAbs, min e d, ?_, ?_, fun hz => ?_⟩
    · simp only [fpAdd, hv, if_neg h0]
    · rw [← hval, Fp.val_fin, ← mul_assoc]
      congr 1
      rw [Nat.cast_natAbs]
      rcases lt_or_gt_of_ne h0 with hlt | hgt
      · simp [sgn, hlt, abs_of_neg hlt]
      · simp [sgn, hgt.le.not_gt, abs_of_pos hgt]
    · rw [← hval, mul_eq_zero, or_iff_left hu, Int.cast_eq_zero] at hz
      exact absurd hz h0

theorem fpNeg_val (v : Fp) : (fpNeg v).val = -v.val := by
  cases v with
  | fin s m e => rw [fpNeg, Fp.val_fin, Fp.val_fin, sgn_not, neg_mul]
  | inf s => simp [fpNeg, Fp.val]
  | nan => simp [fpNeg, Fp.val]

/-- The quotient that `fpDiv` forms stands for the exact one. -/
theorem fpDiv_fin {F bits : Nat} (hb : F + 2 ≤ bits) (s t : Bool) (m n : Nat) (e d : Int) (hn : n ≠ 0) :
    ∃ k l, fpDiv bits (.fin s m e) (.fin t n d) = .fin (s != t) k l ∧ StandsFor F (m * 2 ^ e / (n * 2 ^ d)) k l := by
  refine ⟨_, _, if_neg hn, ?_⟩
  generalize hl : e - d - ((bits + n.log2 : Nat) : Int) - 1 = l
  generalize hnum : m * 2 ^ (bits + n.log2) = num
  have hu : (0 : ℚ) < 2 ^ l := by positivity
  have hn' : (0 : ℚ) < n := by exact_mod_cast Nat.pos_of_ne_zero hn
  have hq : (m : ℚ) * 2 ^ e / (n * 2 ^ d) = 2 * num / n * 2 ^ l := by
    have he : (2 : ℚ) ^ e = 2 ^ (bits + n.log2) * 2 * 2 ^ l * 2 ^ d := by
      rw [← zpow_natCast, ← zpow_add_one₀ two_ne_zero, ← zpow_add₀ two_ne_zero, ← zpow_add₀ two_ne_zero]
      congr 1
      omega
    have hd : (2 : ℚ) ^ d ≠ 0 := by positivity
    rw [← hnum, he]
    push_cast
    field_simp
  have hdiv : (num : ℚ) = n * (num / n : Nat) + (num % n : Nat) := by exact_mod_cast (Nat.div_add_mod num n).symm
  have hmod : ((num % n : Nat) : ℚ) < n := by exact_mod_cast Nat.mod_lt num (Nat.pos_of_ne_zero hn)
  rw [hq]
  by_cases h0 : num % n = 0
  · left
    rw [if_pos h0]
    rw [h0] at hdiv
    rw [hdiv]
    push_cast
    field_simp
    ring
  · right
    rw [if_neg h0]
    have h0' : (0 : ℚ) < (num % n : Nat) := by exact_mod_cast Nat.pos_of_ne_zero h0
    have hm : 1 ≤ m := Nat.one_le_iff_ne_zero.2 fun h => h0 (by rw [← hnum, h, Nat.zero_mul, Nat.zero_mod])
    obtain ⟨b, rfl⟩ := Nat.exists_eq_add_of_le' (show 1 ≤ bits by omega)
    have hbig : 2 ^ b ≤ num / n := by
      rw [Nat.le_div_iff_mul_le (Nat.pos_of_ne_zero hn), ← hnum]
      calc 2 ^ b * n ≤ 2 ^ b * 2 ^ (n.log2 + 1) := Nat.mul_le_mul_left _ Nat.lt_log2_self.le
        _ = 2 ^ (b + 1 + n.log2) := by rw [← pow_add]; congr 1; ring
        _ ≤ m * 2 ^ (b + 1 + n.log2) := Nat.le_mul_of_pos_left _ hm
    have hF : 2 ^ (F + 2) ≤ 2 * 2 ^ b := by
      rw [← pow_succ']
      exact Nat.pow_le_pow_right (by decide) hb
    refine ⟨by omega, by omega, ?_, ?_⟩
    · refine mul_lt_mul_of_pos_right ?_ hu
      rw [lt_div_iff₀ hn', hdiv]
      push_cast
      linarith
    · refine mul_lt_mul_of_pos_right ?_ hu
      rw [div_lt_iff₀ hn', hdiv]
      push_cast
      linarith

/-! ### Rounded operations on finite operands (R13) -/

namespace Fmt
variable {w : Nat}

theorem pack_rounds_val (f : Fmt w) (n : BitVec w) (s : Bool) (m : Nat) (e : Int) :
    f.Rounds (Fp.fin s m e).val (f.pack n (.fin s m e)) := by
  rw [Fp.val_fin]
  exact f.pack_rounds n s (.inl rfl)

theorem add_rounds (f : Fmt w) {a b : BitVec w} (ha : f.ieee.finite a = true) (hb : f.ieee.finite b = true) :
    f.Rounds (f.ieee.val a + f.ieee.val b) (f.ieee.add a b) := by
  obtain ⟨m, e, hu, -⟩ := f.unpack_fin ((f.finite_iff a).1 ha)
  obtain ⟨n, d, hv, -⟩ := f.unpack_fin ((f.finite_iff b).1 hb)
  obtain ⟨u, k, l, hsum, hval, -⟩ := fpAdd_fin (neg a) (neg b) m n e d
  simp only [ieee, hu, hv, hsum, ← hval]
  exact f.pack_rounds_val _ u k l

theorem sub_rounds (f : Fmt w) {a b : BitVec w} (ha : f.ieee.finite a = true) (hb : f.ieee.finite b = true) :
    f.Rounds (f.ieee.val a - f.ieee.val b) (f.ieee.sub a b) := by
  obtain ⟨m, e, hu, -⟩ := f.unpack_fin ((f.finite_iff a).1 ha)
  obtain ⟨n, d, hv, -⟩ := f.unpack_fin ((f.finite_iff b).1 hb)
  obtain ⟨u, k, l, hsum, hval, -⟩ := fpAdd_fin (neg a) (!neg b) m n e d
  have hneg : (Fp.fin (!neg b) n d).val = -(Fp.fin (neg b) n d).val := fpNeg_val (.fin (neg b) n d)
  rw [hneg, ← sub_eq_add_neg] at hval
  simp only [ieee, hu, hv, fpNeg, hsum, ← hval]
  exact f.pack_rounds_val _ u k l

theorem fpMul_val (s t : Bool) (m n : Nat) (e d : Int) :
    (Fp.fin (s != t) (m * n) (e + d)).val = (Fp.fin s m e).val * (Fp.fin t n d).val := by
  rw [Fp.val_fin, Fp.val_fin, Fp.val_fin, sgn_bne, zpow_add₀ two_ne_zero]
  push_cast
  ring

theorem mul_rounds (f : Fmt w) {a b : BitVec w} (ha : f.ieee.finite a = true) (hb : f.ieee.finite b = true) :
    f.Rounds (f.ieee.val a * f.ieee.val b) (f.ieee.mul a b) := by
  obtain ⟨m, e, hu, -⟩ := f.unpack_fin ((f.finite_iff a).1 ha)
  obtain ⟨n, d, hv, -⟩ := f.unpack_fin ((f.finite_iff b).1 hb)
  simp only [ieee, hu, hv, fpMul, ← fpMul_val]
  exact f.pack_rounds_val _ _ _ _

theorem div_rounds (f : Fmt w) {a b : BitVec w} (ha : f.ieee.finite a = true) (hb : f.ieee.finite b = true)
    (hne : f.ieee.val b ≠ 0) : f.Rounds (f.ieee.val a / f.ieee.val b) (f.ieee.div a b) := by
  obtain ⟨m, e, hu, -⟩ := f.unpack_fin ((f.finite_iff a).1 ha)
  obtain ⟨n, d, hv, -⟩ := f.unpack_fin ((f.finite_iff b).1 hb)
  have hn : n ≠ 0 := by
    rintro rfl
    exact hne (by simp [ieee, hv, Fp.val])
  obtain ⟨k, l, hdiv, hst⟩ := fpDiv_fin f.bits_le (neg a) (neg b) m n e d hn
  have hq : f.ieee.val a / f.ieee.val b = sgn (neg a != neg b) * (m * 2 ^ e / (n * 2 ^ d)) := by
    simp only [ieee, hu, hv, Fp.val_fin]
    rw [sgn_bne_div, mul_div_mul_comm]
  rw [hq]
  simp only [ieee, hu, hv, hdiv]
  exact f.pack_rounds _ _ hst

/-! ### Special operands (R13) -/

/-- A datum that is not a NaN packs with its own sign. -/
theorem msb_pack_fin (f : Fmt w) (n : BitVec w) (s : Bool) (m : Nat) (e : Int) : (f.pack n (.fin s m e)).msb = s :=
  f.msb_make s ((roundMag_le ..).trans_lt f.inf_lt)

theorem msb_pack_inf (f : Fmt w) (n : BitVec w) (s : Bool) : (f.pack n (.inf s)).msb = s := f.msb_make s f.inf_lt

/-- An operand that is no NaN is an infinity or a finite value. -/
theorem inf_or_finite (f : Fmt w) {x : BitVec w} (h : f.ieee.nan x = false) :
    (mag x = f.inf ∧ f.unpack x = .inf (neg x)) ∨
    (mag x < f.inf ∧ ∃ m e, f.unpack x = .fin (neg x) m e ∧ (m = 0 ↔ mag x = 0)) := by
  rcases Nat.lt_or_eq_of_le ((f.nan_eq_false x).1 h) with hlt | heq
  · obtain ⟨m, e, hu, hv⟩ := f.unpack_fin hlt
    exact .inr ⟨hlt, m, e, hu, significand_eq_zero hv⟩
  · exact .inl ⟨heq, f.unpack_inf heq⟩

/-- A conversion between formats keeps the sign of what is no NaN. -/
theorem msb_pack_unpack (f : Fmt w) {v : Nat} (g : Fmt v) (n : BitVec w) {x : BitVec v} (h : g.ieee.nan x = false) :
    (f.pack n (g.unpack x)).msb = x.msb := by
  rw [← neg_eq_msb x]
  rcases g.inf_or_finite h with ⟨-, hu⟩ | ⟨-, m, e, hu, -⟩ <;> rw [hu]
  · exact f.msb_pack_inf ..
  · exact f.msb_pack_fin ..

theorem specialSums (f : Fmt w) : SpecialSums f.ieee := by
  intro a b ha hb
  simp only [isSigned_inf, finite_iff, withSign_inf, f.withSign_zero, ← neg_eq_msb]
  rcases f.inf_or_finite ha with ⟨hma, hua⟩ | ⟨hma, m, e, hua, -⟩ <;>
    rcases f.inf_or_finite hb with ⟨hmb, hub⟩ | ⟨hmb, n, d, hub, -⟩
  · have ea := f.eq_make hma
    have eb := f.eq_make hmb
    refine ⟨fun _ h => absurd hmb h, fun h => absurd hma h, fun _ hab => ?_, fun _ _ hab => ?_, fun h => absurd hma h.ne⟩
    · subst hab
      simp only [ieee, hua, fpAdd, fpNeg, if_true, if_neg (by simp : ¬ neg a = !neg a)]
      exact ⟨ea.symm, f.nan_pack_nan ..⟩
    · have hs : neg a ≠ neg b := fun h => hab (ea.trans (h ▸ eb.symm))
      simp only [ieee, hua, hub, fpAdd, fpNeg, if_neg hs, if_pos (Bool.eq_not.2 hs)]
      exact ⟨f.nan_pack_nan .., ea.symm⟩
  · refine ⟨fun _ _ => ?_, fun h => absurd hma h, fun _ hab => ?_, fun _ h => absurd h hmb.ne, fun h => absurd hma h.ne⟩
    · simp only [ieee, hua, hub, fpAdd, fpNeg]
      exact ⟨(f.eq_make hma).symm, (f.eq_make hma).symm⟩
    · exact absurd (hab ▸ hma) hmb.ne
  · refine ⟨fun h => absurd h hma.ne, fun _ _ => ?_, fun h => absurd h hma.ne, fun h => absurd h hma.ne,
      fun _ h => absurd hmb h.ne⟩
    simp only [ieee, hua, hub, fpAdd, fpNeg]
    exact ⟨(f.eq_make hmb).symm, rfl⟩
  · refine ⟨fun h => absurd h hma.ne, fun _ h => absurd h hmb.ne, fun h => absurd h hma.ne, fun h => absurd h hma.ne,
      fun _ _ => ⟨fun hz => ?_, fun hz => ?_⟩⟩
    · obtain ⟨u, k, l, hsum, -, hzero⟩ := fpAdd_fin (neg a) (neg b) m n e d
      simp only [ieee, hua, hub] at hz ⊢
      obtain ⟨rfl, rfl⟩ := hzero hz
      rw [hsum, pack_zero]
    · obtain ⟨u, k, l, hsum, -, hzero⟩ := fpAdd_fin (neg a) (!neg b) m n e d
      simp only [ieee, hua, hub, fpNeg] at hz ⊢
      have hneg : (Fp.fin (!neg b) n d).val = -(Fp.fin (neg b) n d).val := fpNeg_val (.fin (neg b) n d)
      rw [hneg, ← sub_eq_add_neg] at hzero
      obtain ⟨rfl, rfl⟩ := hzero hz
      rw [hsum, pack_zero]

theorem specialProducts (f : Fmt w) : SpecialProducts f.ieee := by
  intro a b ha hb
  have hpos := f.inf_pos
  simp only [isSigned_inf, f.isSigned_zero, withSign_inf, ← neg_eq_msb]
  rcases f.inf_or_finite ha with ⟨hma, hua⟩ | ⟨hma, m, e, hua, hm⟩ <;>
    rcases f.inf_or_finite hb with ⟨hmb, hub⟩ | ⟨hmb, n, d, hub, hn⟩ <;> simp only [ieee, hua, hub, fpMul]
  · refine ⟨fun _ => ?_, ?_, fun _ => rfl⟩
    · rw [neg_eq_msb, f.msb_pack_inf]
    · rintro (⟨-, h⟩ | ⟨h, -⟩) <;> omega
  · split
    next h0 =>
      refine ⟨fun h => ?_, fun _ => f.nan_pack_nan .., fun h => ?_⟩
      · exact absurd (f.nan_pack_nan ..) (ne_true_of_eq_false h)
      · rcases h with ⟨-, h⟩ | ⟨-, h⟩
        · exact absurd (hn.1 h0) h
        · exact absurd h hmb.ne
    next h0 =>
      refine ⟨fun _ => ?_, ?_, fun _ => rfl⟩
      · rw [neg_eq_msb, f.msb_pack_inf]
      · rintro (⟨-, h⟩ | ⟨-, h⟩)
        · exact absurd (hn.2 h) h0
        · exact absurd h hmb.ne
  · split
    next h0 =>
      refine ⟨fun h => ?_, fun _ => f.nan_pack_nan .., fun h => ?_⟩
      · exact absurd (f.nan_pack_nan ..) (ne_true_of_eq_false h)
      · rcases h with ⟨h, -⟩ | ⟨h, -⟩
        · exact absurd h hma.ne
        · exact absurd (hm.1 h0) h
    next h0 =>
      refine ⟨fun _ => ?_, ?_, fun _ => rfl⟩
      · rw [neg_eq_msb, f.msb_pack_inf]
      · rintro (⟨h, -⟩ | ⟨h, -⟩)
        · exact absurd h hma.ne
        · exact absurd (hm.2 h) h0
  · refine ⟨fun _ => ?_, ?_, ?_⟩
    · rw [neg_eq_msb, f.msb_pack_fin]
    · rintro (⟨h, -⟩ | ⟨-, h⟩) <;> omega
    · rintro (⟨h, -⟩ | ⟨-, h⟩) <;> omega

theorem specialQuotients (f : Fmt w) : SpecialQuotients f.ieee := by
  intro a b ha hb
  have hpos := f.inf_pos
  simp only [isSigned_inf, f.isSigned_zero, finite_iff, withSign_inf, f.withSign_zero, ← neg_eq_msb]
  rcases f.inf_or_finite ha with ⟨hma, hua⟩ | ⟨hma, m, e, hua, hm⟩ <;>
    rcases f.inf_or_finite hb with ⟨hmb, hub⟩ | ⟨hmb, n, d, hub, hn⟩ <;> simp only [ieee, hua, hub, fpDiv]
  · refine ⟨fun h => ?_, fun _ => f.nan_pack_nan .., ?_, fun h => ?_⟩
    · exact absurd (f.nan_pack_nan ..) (ne_true_of_eq_false h)
    · rintro (⟨-, h⟩ | ⟨h, -⟩) <;> omega
    · omega
  · refine ⟨fun _ => ?_, ?_, fun _ => rfl, fun h => ?_⟩
    · rw [neg_eq_msb, f.msb_pack_inf]
    · rintro (⟨-, h⟩ | ⟨h, -⟩) <;> omega
    · omega
  · refine ⟨fun _ => ?_, ?_, ?_, fun _ => f.pack_zero ..⟩
    · rw [neg_eq_msb, f.msb_pack_fin]
    · rintro (⟨h, -⟩ | ⟨-, h⟩) <;> omega
    · rintro (⟨h, -⟩ | ⟨-, -, h⟩) <;> omega
  · by_cases h0 : n = 0
    · rw [if_pos h0]
      by_cases h1 : m = 0
      · rw [if_pos h1]
        refine ⟨fun h => ?_, fun _ => f.nan_pack_nan .., ?_, fun h => ?_⟩
        · exact absurd (f.nan_pack_nan ..) (ne_true_of_eq_false h)
        · rintro (⟨h, -⟩ | ⟨-, h, -⟩)
          · omega
          · exact absurd (hm.1 h1) h
        · omega
      · rw [if_neg h1]
        refine ⟨fun _ => ?_, ?_, fun _ => rfl, fun h => ?_⟩
        · rw [neg_eq_msb, f.msb_pack_inf]
        · rintro (⟨h, -⟩ | ⟨h, -⟩)
          · omega
          · exact absurd (hm.2 h) h1
        · omega
    · rw [if_neg h0]
      refine ⟨fun _ => ?_, ?_, ?_, fun h => ?_⟩
      · rw [neg_eq_msb, f.msb_pack_fin]
      · rintro (⟨h, -⟩ | ⟨-, h⟩)
        · omega
        · exact absurd (hn.2 h) h0
      · rintro (⟨h, -⟩ | ⟨-, -, h⟩)
        · omega
        · exact absurd (hn.2 h) h0
      · omega

/-! ### Comparisons (R21) -/

theorem ltb_iff (f : Fmt w) (a b : BitVec w) :
    f.ltb a b = true ↔ f.ieee.nan a = false ∧ f.ieee.nan b = false ∧ key a < key b := by
  simp only [ltb, Bool.and_eq_true, Bool.not_eq_true', decide_eq_true_eq, and_assoc]

theorem leb_iff (f : Fmt w) (a b : BitVec w) :
    f.leb a b = true ↔ f.ieee.nan a = false ∧ f.ieee.nan b = false ∧ key a ≤ key b := by
  simp only [leb, Bool.and_eq_true, Bool.not_eq_true', decide_eq_true_eq, and_assoc]

/-- The keys of finite patterns are in the order of their values. -/
theorem key_lt_iff (f : Fmt w) {a b : BitVec w} (ha : f.ieee.finite a = true) (hb : f.ieee.finite b = true) :
    key a < key b ↔ f.ieee.val a < f.ieee.val b := by
  rw [f.val_eq ((f.finite_iff a).1 ha), f.val_eq ((f.finite_iff b).1 hb), key, key]
  generalize mag a = x
  generalize mag b = y
  have hx := magVal_nonneg (F := f.frac) (E := f.emin) x
  have hy := magVal_nonneg (F := f.frac) (E := f.emin) y
  have hlt : ∀ i j, magVal f.frac f.emin i < magVal f.frac f.emin j ↔ i < j := fun _ _ => magVal_strictMono.lt_iff_lt
  cases neg a <;> cases neg b <;> simp only [signed, sgn, if_true, Bool.false_eq_true, if_false, one_mul, neg_one_mul]
  · rw [hlt, Nat.cast_lt]
  · constructor <;> intro h <;> exfalso
    · omega
    · linarith
  · have h0 : 0 < magVal f.frac f.emin x + magVal f.frac f.emin y ↔ 0 < x ∨ 0 < y := by
      have hx0 := hlt 0 x
      have hy0 := hlt 0 y
      rw [magVal_zero] at hx0 hy0
      rw [← hx0, ← hy0]
      constructor
      · intro h
        by_contra hn
        rw [not_or] at hn
        linarith [hn.1, hn.2]
      · rintro (h | h) <;> linarith
    constructor
    · intro h
      have := h0.2 (by omega)
      linarith
    · intro h
      have := h0.1 (by linarith)
      omega
  · rw [neg_lt_neg_iff, neg_lt_neg_iff, hlt, Nat.cast_lt]

theorem nan_make_inf (f : Fmt w) (s : Bool) : f.ieee.nan (make w s f.inf) = false := by
  rw [nan_eq_false, f.mag_make s f.inf_lt]

theorem key_make_inf (f : Fmt w) (s : Bool) : key (make w s f.inf) = signed s f.inf := by
  rw [key, f.mag_make s f.inf_lt, f.neg_make s f.inf_lt]

theorem key_bounds (f : Fmt w) {a : BitVec w} (h : f.ieee.nan a = false) :
    -(f.inf : Int) ≤ key a ∧ key a ≤ f.inf := by
  have := (f.nan_eq_false a).1 h
  unfold key signed
  split <;> omega

/-- Only an infinity has the key of an infinity. -/
theorem key_eq_inf (f : Fmt w) (a : BitVec w) (s : Bool) : key a = signed s f.inf ↔ a = make w s f.inf := by
  refine ⟨fun h => ?_, fun h => h ▸ f.key_make_inf s⟩
  have hpos := f.inf_pos
  have hm : neg a = s ∧ mag a = f.inf := by
    unfold key signed at h
    cases hn : neg a <;> cases s <;> simp only [hn, if_true, Bool.false_eq_true, if_false] at h
    · exact ⟨rfl, by omega⟩
    · omega
    · omega
    · exact ⟨rfl, by omega⟩
  exact hm.1 ▸ f.eq_make hm.2

theorem ieee_inf (f : Fmt w) : f.ieee.inf = make w false f.inf := f.withSign_inf false

theorem isLessThan_ltb (f : Fmt w) : IsLessThan f.ieee f.ltb := by
  intro a b
  rw [withSign_inf, ieee_inf]
  have hpos := f.key_eq_inf a false
  have hneg := f.key_eq_inf a true
  simp only [signed, Bool.false_eq_true, if_false, if_true] at hpos hneg
  simp only [ltb_iff, ← Bool.not_eq_true (f.ltb _ _), nan_make_inf, key_make_inf, signed, true_and, Bool.false_eq_true,
    if_false, if_true, ← hpos, ← hneg, ne_eq]
  refine ⟨?_, fun ha hb => ?_, ?_, ?_, ?_, ?_⟩
  · rintro (h | h) ⟨ha, hb, -⟩
    · rw [h] at ha
      cases ha
    · rw [h] at hb
      cases hb
  · have hna := (f.nan_eq_false a).2 ((f.finite_iff a).1 ha).le
    have hnb := (f.nan_eq_false b).2 ((f.finite_iff b).1 hb).le
    simp only [hna, hnb, true_and, f.key_lt_iff ha hb]
  · refine and_congr_right fun h => ?_
    have := f.key_bounds h
    omega
  · rintro ⟨h, hk⟩
    have := f.key_bounds h
    omega
  · refine and_congr_right fun h => ?_
    have := f.key_bounds h
    omega
  · rintro ⟨h, hk⟩
    have := f.key_bounds h
    omega

theorem isAtMost_leb (f : Fmt w) : IsAtMost f.ieee f.leb := by
  intro a b
  rw [withSign_inf, ieee_inf]
  have hpos := f.key_eq_inf a false
  have hneg := f.key_eq_inf a true
  simp only [signed, Bool.false_eq_true, if_false, if_true] at hpos hneg
  simp only [leb_iff, ← Bool.not_eq_true (f.leb _ _), nan_make_inf, key_make_inf, signed, true_and, Bool.false_eq_true,
    if_false, if_true]
  refine ⟨?_, fun ha hb => ?_, ?_, ?_, ?_, ?_⟩
  · rintro (h | h) ⟨ha, hb, -⟩
    · rw [h] at ha
      cases ha
    · rw [h] at hb
      cases hb
  · have hna := (f.nan_eq_false a).2 ((f.finite_iff a).1 ha).le
    have hnb := (f.nan_eq_false b).2 ((f.finite_iff b).1 hb).le
    simp only [hna, hnb, true_and, ← not_lt, f.key_lt_iff hb ha]
  · exact ⟨fun h => h.1, fun h => ⟨h, (f.key_bounds h).2⟩⟩
  · rw [← hpos]
    refine ⟨fun ⟨h, hk⟩ => ?_, fun h => ⟨?_, h.ge⟩⟩
    · exact le_antisymm (f.key_bounds h).2 hk
    · exact hpos.1 h ▸ f.nan_make_inf false
  · exact ⟨fun h => h.1, fun h => ⟨h, (f.key_bounds h).1⟩⟩
  · rw [← hneg]
    refine ⟨fun ⟨h, hk⟩ => ?_, fun h => ⟨?_, h.le⟩⟩
    · exact le_antisymm hk (f.key_bounds h).1
    · exact hneg.1 h ▸ f.nan_make_inf true

/-- Clearing the sign bit, as a mask. -/
theorem make_false_mag (f : Fmt w) (x : BitVec w) : make w false (mag x) = x &&& BitVec.ofNat w (2 ^ (w - 1) - 1) := by
  have := f.two_pow_width
  have := Nat.two_pow_pos (w - 1)
  apply BitVec.eq_of_toNat_eq
  rw [f.make_toNat false (mag_lt x), BitVec.toNat_and, BitVec.toNat_ofNat,
    Nat.mod_eq_of_lt (show 2 ^ (w - 1) - 1 < 2 ^ w by omega), Nat.and_two_pow_sub_one_eq_mod, mag]
  simp

/-- Inverting the sign bit, as a mask. -/
theorem make_not_neg_mag (f : Fmt w) (x : BitVec w) : make w (!neg x) (mag x) = x ^^^ BitVec.ofNat w (2 ^ (w - 1)) := by
  have h2 := f.two_pow_width
  have hg := mag_lt x
  conv_rhs => rw [← f.make_neg_mag x]
  apply BitVec.eq_of_toNat_eq
  rw [BitVec.toNat_xor, f.make_toNat _ hg, f.make_toNat _ hg, BitVec.toNat_ofNat,
    Nat.mod_eq_of_lt (show 2 ^ (w - 1) < 2 ^ w by omega)]
  have hor : 2 ^ (w - 1) + mag x = 2 ^ (w - 1) ^^^ mag x := by
    have hadd := Nat.two_pow_add_eq_or_of_lt hg 1
    rw [Nat.mul_one] at hadd
    rw [hadd]
    refine Nat.eq_of_testBit_eq fun i => ?_
    rw [Nat.testBit_or, Nat.testBit_xor, Nat.testBit_two_pow]
    by_cases hi : w - 1 = i
    · rw [Nat.testBit_lt_two_pow (hi ▸ hg)]
      simp
    · simp [hi]
  cases neg x with
  | false => simp [hor, Nat.xor_comm]
  | true =>
    simp only [Bool.not_true, Bool.false_eq_true, if_false, if_true, hor]
    rw [Nat.xor_comm, ← Nat.xor_assoc, Nat.xor_self, Nat.zero_xor, Nat.zero_add]

/-! ### Exact conversions (R16, R21) -/

theorem magVal_inf (f : Fmt w) :
    magVal f.frac f.emin f.inf = 2 ^ (f.frac + 1) * 2 ^ (f.emin + ((2 ^ (w - 1 - f.frac) - 3 : Nat) : Int)) := by
  have h2 : 2 ^ (f.frac + 1) = 2 * 2 ^ f.frac := by ring
  rw [f.inf_eq, magVal_binade le_rfl (.inr (by omega))]
  push_cast
  ring

/-- What a finite pattern with sign bit `s` and magnitude value `v` is. -/
theorem finite_val_msb_make (f : Fmt w) (s : Bool) {g : Nat} (h : g < f.inf) :
    f.ieee.finite (make w s g) = true ∧ f.ieee.val (make w s g) = sgn s * magVal f.frac f.emin g ∧
      (make w s g).msb = s :=
  ⟨(f.finite_iff _).2 (by rwa [f.mag_make s (h.trans f.inf_lt)]), f.val_make s h, f.msb_make s (h.trans f.inf_lt)⟩

/-- An integer of at most `frac + 1` bits converts exactly. -/
theorem pack_nat (f : Fmt w) (nan : BitVec w) {n k : Nat} (hE : f.emin + k = 0) (hk : k < 2 ^ (w - 1 - f.frac) - 3)
    (hn : n ≤ 2 ^ (f.frac + 1)) :
    f.ieee.finite (f.pack nan (.fin false n 0)) = true ∧ f.ieee.val (f.pack nan (.fin false n 0)) = n ∧
      (f.pack nan (.fin false n 0)).msb = false := by
  obtain ⟨g, hg⟩ := exists_magVal_eq (E := f.emin) n k hn
  rw [hE] at hg
  have hn' : (n : ℚ) ≤ 2 ^ (f.frac + 1) := by exact_mod_cast hn
  have hlt : g < f.inf := by
    rw [← magVal_strictMono.lt_iff_lt (f := magVal f.frac f.emin), hg, f.magVal_inf, zpow_zero, mul_one]
    exact hn'.trans_lt (lt_mul_of_one_lt_right (by positivity) (one_lt_zpow₀ one_lt_two (by omega)))
  rw [f.pack_exact nan false hg.symm hlt.le]
  obtain ⟨hf, hv, hs⟩ := f.finite_val_msb_make false hlt
  exact ⟨hf, by rw [hv, hg]; simp [sgn], hs⟩

end Fmt

theorem magVal_inf32 : magVal fmt32.frac fmt32.emin fmt32.inf = 2 ^ (128 : Int) := by
  rw [Fmt.magVal_inf, ← zpow_natCast, ← zpow_add₀ two_ne_zero]
  rfl

theorem magVal_inf64 : magVal fmt64.frac fmt64.emin fmt64.inf = 2 ^ (1024 : Int) := by
  rw [Fmt.magVal_inf, ← zpow_natCast, ← zpow_add₀ two_ne_zero]
  rfl

theorem bound32_eq : overflowBound32 = fmt32.bound := by
  rw [Fmt.bound_eq, overflowBound32]
  norm_num [fmt32]

theorem bound64_eq : overflowBound64 = fmt64.bound := by
  rw [Fmt.bound_eq, overflowBound64]
  norm_num [fmt64]

/-- The claims' correct rounding is that of the format. -/
theorem rounds32_iff (r : ℚ) (y : F32) : Rounds32 r y ↔ fmt32.Rounds r y := by
  rw [Rounds32, bound32_eq]
  rfl

theorem rounds64_iff (r : ℚ) (y : F64) : Rounds64 r y ↔ fmt64.Rounds r y := by
  rw [Rounds64, bound64_eq]
  rfl

/-- Every binary32 magnitude is a binary64 one. -/
theorem exists_magVal64 {g : Nat} (hg : g < fmt32.inf) :
    ∃ g', g' < fmt64.inf ∧ magVal fmt64.frac fmt64.emin g' = magVal fmt32.frac fmt32.emin g := by
  obtain ⟨k, s, hgs, hs, hk⟩ := exists_binade fmt32.frac g
  obtain ⟨g', hg'⟩ := exists_magVal_eq (F := fmt64.frac) (E := fmt64.emin) s (k + 925)
    (hs.le.trans (Nat.pow_le_pow_right (by decide) (by decide)))
  have heq : magVal fmt64.frac fmt64.emin g' = magVal fmt32.frac fmt32.emin g := by
    rw [hg', hgs, magVal_binade hs.le hk, show fmt64.emin + ((k + 925 : Nat) : Int) = fmt32.emin + k from ?_]
    show (-1074 : Int) + ((k + 925 : Nat) : Int) = -149 + k
    omega
  refine ⟨g', magVal_strictMono.lt_iff_lt.1 (heq.trans_lt ((magVal_strictMono hg).trans ?_)), heq⟩
  rw [magVal_inf32, magVal_inf64]
  exact zpow_lt_zpow_right₀ one_lt_two (by decide)

/-- What widening a finite value and an infinity gives. -/
theorem widen_finite {x : F32} (hx : Fmt.mag x < fmt32.inf) :
    ∃ g, g < fmt64.inf ∧ widen x = Fmt.make 64 (Fmt.neg x) g ∧
      magVal fmt64.frac fmt64.emin g = magVal fmt32.frac fmt32.emin (Fmt.mag x) := by
  obtain ⟨g, hg, he⟩ := exists_magVal64 hx
  obtain ⟨m, e, hu, hv⟩ := fmt32.unpack_fin hx
  refine ⟨g, hg, ?_, he⟩
  rw [widen, unpack32_eq, pack64_eq, hu]
  exact fmt64.pack_exact _ _ (hv.trans he.symm) hg.le

theorem widen_inf {x : F32} (hx : Fmt.mag x = fmt32.inf) : widen x = Fmt.make 64 (Fmt.neg x) fmt64.inf := by
  rw [widen, unpack32_eq, pack64_eq, fmt32.unpack_inf hx]
  rfl

theorem narrow32_make_inf (s : Bool) : narrow32 (Fmt.make 64 s fmt64.inf) = Fmt.make 32 s fmt32.inf := by
  rw [narrow32, unpack64_eq, pack32_eq, fmt64.unpack_inf (fmt64.mag_make s fmt64.inf_lt), fmt64.neg_make s fmt64.inf_lt]
  rfl

/-- Narrowing a binary64 value that is a binary32 one. -/
theorem narrow32_make (s : Bool) {g g' : Nat} (hg : g < fmt64.inf) (hg' : g' < fmt32.inf)
    (h : magVal fmt64.frac fmt64.emin g = magVal fmt32.frac fmt32.emin g') :
    narrow32 (Fmt.make 64 s g) = Fmt.make 32 s g' := by
  have hm := fmt64.mag_make s (hg.trans fmt64.inf_lt)
  obtain ⟨m, e, hu, hv⟩ := fmt64.unpack_fin (x := Fmt.make 64 s g) (by rwa [hm])
  rw [fmt64.neg_make s (hg.trans fmt64.inf_lt)] at hu
  rw [narrow32, unpack64_eq, pack32_eq, hu]
  exact fmt32.pack_exact _ _ (by rw [hv, hm, h]) hg'.le

theorem narrow32_widen {x : F32} (h : ¬ IsNaN x) : narrow32 (widen x) = x := by
  rcases fmt32.inf_or_finite (x := x) (Bool.not_eq_true _ ▸ h) with ⟨hx, -⟩ | ⟨hx, -⟩
  · rw [widen_inf hx, narrow32_make_inf]
    exact (fmt32.eq_make hx).symm
  · obtain ⟨g, hg, hw, he⟩ := widen_finite hx
    rw [hw, narrow32_make _ hg hx he]
    exact fmt32.make_neg_mag x

/-- `floor` of a finite nonnegative value is its integer part (R16). -/
theorem f64Floor_eq {v : F64} (hv : isFinite64 v = true) (h0 : 0 ≤ val64 v) : (f64Floor v : Int) = ⌊val64 v⌋ := by
  obtain ⟨m, e, hu, -⟩ := fmt64.unpack_fin ((fmt64.finite_iff v).1 hv)
  rw [← unpack64_eq] at hu
  rw [val64, hu, Fp.val_fin] at h0 ⊢
  rw [f64Floor, hu]
  cases hs : Fmt.neg v with
  | true =>
    have : (m : ℚ) * 2 ^ e = 0 := by
      have : 0 ≤ (m : ℚ) * 2 ^ e := by positivity
      simp only [hs, sgn, if_true] at h0
      linarith
    simp [this]
  | false =>
    simp only [sgn, Bool.false_eq_true, if_false, one_mul]
    split
    next he =>
      rw [← scaleTo_mul he, zpow_zero, mul_one, Int.floor_natCast]
    next he =>
      have hq : (m : ℚ) * 2 ^ e = m / (2 ^ (-e).toNat : Nat) := by
        push_cast
        rw [← zpow_natCast, div_eq_mul_inv, ← zpow_neg, show -((-e).toNat : Int) = e by omega]
      rw [hq, ← Int.natCast_floor_eq_floor (by positivity), Nat.floor_div_eq_div]

/-! ### Quiet NaNs (R14) -/

theorem quietIfNaN32_pack32 {n : F32} (hn : isNaN32 n = true) (hq : QuietIfNaN32 n) (v : Fp) :
    QuietIfNaN32 (pack32 n v) := by
  intro h
  obtain rfl := (isNaN32_pack32 n hn v).1 h
  exact hq h

theorem quietIfNaN64_pack64 {n : F64} (hn : isNaN64 n = true) (hq : QuietIfNaN64 n) (v : Fp) :
    QuietIfNaN64 (pack64 n v) := by
  intro h
  obtain rfl := (isNaN64_pack64 n hn v).1 h
  exact hq h

theorem f64Sub_nan {a b : F64} (h : isNaN64 a = true ∨ isNaN64 b = true) : isNaN64 (f64Sub a b) = true := by
  rw [f64Sub, isNaN64_pack64 _ (isNaN64_nan64 ..)]
  rcases h with h | h <;> rw [(unpack64_eq_nan _).2 h]
  · rfl
  · exact fpAdd_nan_right _

/-! ### The obligations -/

/-- Settles O23: both formats are instances of one, for which `pack` rounds every exact result correctly. -/
theorem addSubMulRoundToNearest : Obligations.AddSubMulRoundToNearest := by
  unfold Obligations.AddSubMulRoundToNearest
  simp only [rounds32_iff, rounds64_iff]
  refine ⟨fun a b ha hb => ?_, fun a b ha hb => ?_, ?_, ?_, ?_, ?_⟩
  · have h := And.intro (fmt32.add_rounds ha hb) (And.intro (fmt32.sub_rounds ha hb) (fmt32.mul_rounds ha hb))
    rw [← binary32_eq] at h
    exact h
  · have h := And.intro (fmt64.add_rounds ha hb) (And.intro (fmt64.sub_rounds ha hb) (fmt64.mul_rounds ha hb))
    rw [← binary64_eq] at h
    exact h
  · exact binary32_eq ▸ fmt32.specialSums
  · exact binary32_eq ▸ fmt32.specialProducts
  · exact binary64_eq ▸ fmt64.specialSums
  · exact binary64_eq ▸ fmt64.specialProducts

theorem narrow32_rounds {a : F64} (ha : isFinite64 a = true) : Rounds32 (val64 a) (narrow32 a) := by
  obtain ⟨m, e, hu, -⟩ := fmt64.unpack_fin ((fmt64.finite_iff a).1 ha)
  rw [rounds32_iff, val64, narrow32, unpack64_eq, pack32_eq, hu]
  exact fmt32.pack_rounds_val ..

theorem narrow32_msb {a : F64} (ha : isNaN64 a = false) : (narrow32 a).msb = a.msb := by
  rw [narrow32, unpack64_eq, pack32_eq]
  exact fmt32.msb_pack_unpack fmt64 _ ha

theorem widen_msb {a : F32} (ha : isNaN32 a = false) : (widen a).msb = a.msb := by
  rw [widen, unpack32_eq, pack64_eq]
  exact fmt64.msb_pack_unpack fmt32 _ ha

theorem val32_eq_zero {a : F32} (ha : isFinite32 a = true) : val32 a = 0 ↔ IsSigned 0 a := by
  rw [fmt32.isSigned_zero]
  have h := fmt32.val_eq ((fmt32.finite_iff a).1 ha)
  have hz := magVal_strictMono.injective.eq_iff (f := magVal fmt32.frac fmt32.emin) (a := Fmt.mag a) (b := 0)
  rw [magVal_zero] at hz
  rw [← hz, show val32 a = _ from h, mul_eq_zero, or_iff_right (by cases Fmt.neg a <;> simp [sgn])]

/-- Settles O24: the quotient that is formed stands for the exact one, so that `pack` rounds it correctly. -/
theorem divAndNarrowRoundToNearest : Obligations.DivAndNarrowRoundToNearest := by
  have hq : SpecialQuotients binary32 := binary32_eq ▸ fmt32.specialQuotients
  have hn : ∀ {x : F32}, isFinite32 x = true → isNaN32 x = false := fun {x} hx =>
    (fmt32.nan_eq_false x).2 ((fmt32.finite_iff x).1 hx).le
  unfold Obligations.DivAndNarrowRoundToNearest
  refine ⟨fun a b ha hb => ⟨fun hne => ?_, fun hb0 ha0 => ?_, fun hb0 ha0 => ?_⟩, fun a b ha hb hne => ?_, hq,
    binary64_eq ▸ fmt64.specialQuotients, fun a => ⟨narrow32_rounds, narrow32_msb, fun h => ?_⟩,
    fun a => ⟨widen_msb, fun h => ?_⟩⟩
  · rw [rounds32_iff]
    have h := fmt32.div_rounds ha hb hne
    rw [← binary32_eq] at h
    exact h
  · obtain ⟨-, -, hinf, -⟩ := hq a b (hn ha) (hn hb)
    have h := hinf (.inr ⟨ha, fun h => ha0 ((val32_eq_zero ha).2 h), (val32_eq_zero hb).1 hb0⟩)
    rw [binary32_eq, Fmt.withSign_inf, ← Fmt.neg_eq_msb, ← Fmt.neg_eq_msb, ← binary32_eq] at h
    exact h
  · obtain ⟨-, hnan, -⟩ := hq a b (hn ha) (hn hb)
    exact hnan (.inr ⟨(val32_eq_zero ha).1 ha0, (val32_eq_zero hb).1 hb0⟩)
  · rw [rounds64_iff]
    have h := fmt64.div_rounds ha hb hne
    rw [← binary64_eq] at h
    exact h
  · rw [binary64_eq, Fmt.isSigned_inf] at h
    rw [fmt64.eq_make h, narrow32_make_inf, fmt64.msb_make _ fmt64.inf_lt, binary32_eq, Fmt.withSign_inf]
  · rw [binary32_eq, Fmt.isSigned_inf] at h
    rw [widen_inf h, Fmt.neg_eq_msb, binary64_eq, Fmt.withSign_inf]

/-- Settles O25: a datum whose value is that of a pattern packs to that pattern. -/
theorem wideningIsExact : Obligations.WideningIsExact := by
  unfold Obligations.WideningIsExact
  refine ⟨fun x => ⟨fun hx => ?_, narrow32_widen, fun h => ?_⟩, fun n hn => ?_, fun n hn => ?_, fun v => f64Floor_eq⟩
  · have hm := (fmt32.finite_iff x).1 hx
    obtain ⟨g, hg, hw, he⟩ := widen_finite hm
    obtain ⟨hf, hv, -⟩ := fmt64.finite_val_msb_make (Fmt.neg x) hg
    rw [he, ← fmt32.val_eq hm] at hv
    rw [hw]
    exact ⟨hf, hv⟩
  · rw [IsNaN, isNaN32_narrow32, isNaN64_widen]
    exact h
  · have h := fmt32.pack_nat F32.zero (n := n) (k := 149) rfl (by decide) hn
    rw [← pack32_eq, ← binary32_eq] at h
    exact h
  · have h := fmt64.pack_nat 0 (n := n) (k := 1074) rfl (by decide) hn
    rw [← pack64_eq, ← binary64_eq] at h
    exact h

/-- Settles O26: the keys of both formats are ordered as the values are, with the infinities at the ends. -/
theorem comparisonsFollowTheRealOrder : Obligations.ComparisonsFollowTheRealOrder := by
  unfold Obligations.ComparisonsFollowTheRealOrder
  refine ⟨?_, ?_, ?_, fun a b => ⟨fun h => if_pos h, ?_, fun h => if_pos h, ?_, ?_, ?_⟩,
    fun a b => ⟨fun h => if_pos h, ?_, ?_, ?_⟩⟩
  · exact binary32_eq ▸ f32Lt_eq ▸ fmt32.isLessThan_ltb
  · exact binary32_eq ▸ f32Le_eq ▸ fmt32.isAtMost_leb
  · exact binary64_eq ▸ f64Lt_eq ▸ fmt64.isLessThan_ltb
  · exact fun h => if_neg (Bool.not_eq_true _ ▸ h)
  · exact fun h => if_neg (Bool.not_eq_true _ ▸ h)
  · exact fmt32.make_false_mag a
  · exact fmt32.make_not_neg_mag a
  · exact fun h => if_neg (Bool.not_eq_true _ ▸ h)
  · exact fmt64.make_false_mag a
  · exact fmt64.make_not_neg_mag a

/-- Settles O27: an operation gives a NaN by its NaN pattern alone, which is quiet. -/
theorem nanResultsAreQuiet : Obligations.NanResultsAreQuiet := by
  have q32 : ∀ op i j v, QuietIfNaN32 (pack32 (nan32 op i j) v) := fun op i j =>
    quietIfNaN32_pack32 (isNaN32_nan32 op i j) (quietIfNaN32_nan32 op i j)
  have q64 : ∀ op i j v, QuietIfNaN64 (pack64 (nan64 op i j) v) := fun op i j =>
    quietIfNaN64_pack64 (isNaN64_nan64 op i j) (quietIfNaN64_nan64 op i j)
  unfold Obligations.NanResultsAreQuiet
  refine ⟨fun a b => ⟨q32 _ _ _ _, q32 _ _ _ _, q32 _ _ _ _, q32 _ _ _ _, fun h => ?_⟩,
    fun a b => ⟨q64 _ _ _ _, q64 _ _ _ _, q64 _ _ _ _, q64 _ _ _ _, q32 _ _ _ _, fun h => ?_, fun h => ?_⟩,
    fun a => ⟨q64 _ _ _ _, fun h => ?_⟩⟩
  · exact ⟨f32Add_nan h, f32Sub_nan h, f32Mul_nan h, f32Div_nan h⟩
  · exact ⟨f64Add_nan h, f64Sub_nan h, f64Mul_nan h, f64Div_nan h⟩
  · exact (isNaN32_narrow32 a).trans h
  · exact (isNaN64_widen a).trans h

end Sys2Proof.Machine
end

section
/-! PROOFS. The register window: the map of R101, single accesses, and what a write leaves alone (R101, R160, R200, R204). -/

namespace Sys2Proof.Machine

/-! ### The register map (R101) -/

theorem regOffset_globalRegAt (off : Nat) :
    globalRegAt off = .reserved ∨ regOffset (globalRegAt off) = some off := by
  unfold globalRegAt
  split <;> simp [regOffset]

theorem regOffset_ladderRegAt {d : Nat} (h : d < 0x100) :
    ladderRegAt d = .reserved ∨ regOffset (ladderRegAt d) = some (0x100 + d) := by
  have hc : d / 0x10 < 16 := by omega
  unfold ladderRegAt
  split <;> simp [regOffset, hc] <;> omega

theorem regOffset_envRegAt (b : Bank) (d : Nat) :
    envRegAt b d = .reserved ∨ regOffset (envRegAt b d) = some (0x200 + bankBase b + d) := by
  unfold envRegAt
  split <;> simp [regOffset, envRegOffset]

theorem regOffset_bassRegAt (off : Nat) : bassRegAt off = .reserved ∨ regOffset (bassRegAt off) = some off := by
  unfold bassRegAt
  split <;> simp [regOffset]

theorem regOffset_dynRegAt (off : Nat) : dynRegAt off = .reserved ∨ regOffset (dynRegAt off) = some off := by
  unfold dynRegAt
  split <;> simp [regOffset]

/-- The register at an aligned offset has that offset in the map, unless it is reserved. -/
theorem regOffset_regAt {off : Nat} (h4 : off % 4 = 0) :
    regAt off = .reserved ∨ regOffset (regAt off) = some off := by
  unfold regAt
  split_ifs
  · exact regOffset_globalRegAt off
  · convert regOffset_ladderRegAt (d := off - 0x100) (by omega) using 3
    omega
  · convert regOffset_envRegAt .vca (off - 0x200) using 3
    simp only [bankBase]
    omega
  · convert regOffset_envRegAt .vcf (off - 0x240) using 3
    simp only [bankBase]
    omega
  · exact regOffset_bassRegAt off
  · exact regOffset_dynRegAt off
  · exact .inl rfl
  · simp only [regOffset]
    rw [if_pos (by omega)]
    exact .inr (congrArg some (by omega))
  · simp only [regOffset]
    rw [if_pos (by omega)]
    exact .inr (congrArg some (by omega))
  · exact .inl rfl

theorem regAt_ladder {c k : Nat} (hc : c < 16) (hk : k < 0x10) :
    regAt (k + 0x100 + 0x10 * c) = ladderRegAt (0x10 * c + k) := by
  unfold regAt
  rw [if_neg (by omega), if_pos (by omega), show k + 0x100 + 0x10 * c - 0x100 = 0x10 * c + k by omega]

theorem regAt_lstate {c k : Nat} (hc : c < 16) (hk : k < 8) : regAt (0x800 + 0x20 * c + 4 * k) = .lstate c k := by
  unfold regAt
  repeat rw [if_neg (by omega)]
  rw [if_pos (by omega), Reg.lstate.injEq]
  omega

theorem regAt_osbuf {c i : Nat} (hc : c < 16) (hi : i < 8) : regAt (0xA00 + 0x20 * c + 4 * i) = .osbuf c i := by
  unfold regAt
  repeat rw [if_neg (by omega)]
  rw [if_pos (by omega), Reg.osbuf.injEq]
  omega

/-- The offset the map gives a register selects that register. -/
theorem regAt_of_regOffset {r : Reg} {off : Nat} (h : regOffset r = some off) : regAt off = r := by
  cases r with
  | ladIn c | ladFc c | ladRes c | ladOut c =>
    obtain ⟨hc, he⟩ := Option.ite_none_right_eq_some.1 h
    cases he
    rw [regAt_ladder hc (by decide)]
    simp [ladderRegAt, Nat.mul_add_div]
  | lstate c k =>
    obtain ⟨⟨hc, hk⟩, he⟩ := Option.ite_none_right_eq_some.1 h
    cases he
    exact regAt_lstate hc hk
  | osbuf c i =>
    obtain ⟨⟨hc, hi⟩, he⟩ := Option.ite_none_right_eq_some.1 h
    cases he
    exact regAt_osbuf hc hi
  | env b r => cases b <;> cases r <;> cases h <;> rfl
  | reserved => cases h
  | _ => cases h; rfl

/-! ### Single accesses (R200 to R204) -/

/-- Of an address the CORE sees the low 12 bits alone. -/
theorem serve_access_congr {a b : Nat} (h : a % 0x1000 = b % 0x1000) (s : State) (w : Width) (v : Word) :
    serve (.access (.read w a)) s = serve (.access (.read w b)) s ∧
    serve (.access (.write w a v)) s = serve (.access (.write w b v)) s := by
  have hl : accessLegal w a = accessLegal w b := by
    have h4 : a % 4 = b % 4 := by omega
    rw [accessLegal, h4, accessLegal]
  have ho : offsetOf a = offsetOf b := h
  constructor
  · simp only [serve, busAccess, busRead, busErrorRead, heldAccess, hl, ho]
  · simp only [serve, busAccess, busErrorWrite, heldAccess, hl, ho]

theorem accessLegal_b32 {addr : Nat} (h : addr % 4 = 0) : accessLegal .b32 addr = true := by
  simp [accessLegal, h]

theorem step_read {s : State} {addr : Nat} (hr : s.rstN = true) (h4 : addr % 4 = 0) :
    step (s.withAccess (.read .b32 addr)) = .next (busRead addr s) := by
  rw [step_withAccess s _ hr, busAccess, if_pos (accessLegal_b32 h4)]

theorem busWrite_of_ne_cmd {r : Reg} (h : r ≠ .cmd) (v : Word) (s : State) :
    busWrite r v s = .next (writeReg v s r) := by
  unfold busWrite
  split
  · contradiction
  · rfl

/-- A legal write to a register other than CMD applies the register's write rule. -/
theorem step_write {s : State} {addr : Nat} {r : Reg} (hr : s.rstN = true) (h4 : addr % 4 = 0)
    (ha : regAt (offsetOf addr) = r) (hc : r ≠ .cmd) (v : Word) :
    step (s.withAccess (.write .b32 addr v)) = .next (writeReg v s r) := by
  rw [step_withAccess s _ hr, busAccess, if_pos (accessLegal_b32 h4), ha, busWrite_of_ne_cmd hc]

/-! ### The obligations -/

/-- Settles O8: the map and the decoder of offsets are inverse to each other, range by range. -/
theorem registerMapOfTheWindow : Obligations.RegisterMapOfTheWindow := by
  unfold Obligations.RegisterMapOfTheWindow
  refine ⟨fun off r _ h4 hr => ⟨?_, regAt_of_regOffset⟩, fun s w a b v h => serve_access_congr h s w v⟩
  rintro rfl
  exact (regOffset_regAt h4).resolve_left hr

/-- Settles O14: ID is a constant of the read rule and RO. -/
theorem idRegisterConstant : Obligations.IdRegisterConstant := by
  unfold Obligations.IdRegisterConstant
  exact fun s hr => ⟨step_read hr rfl, fun v => step_write (r := .id) hr rfl rfl nofun v⟩

end Sys2Proof.Machine
end

section
/-! PROOFS. What a register write changes: the register it names, the event registers when the value is replaced, and nothing
else (R110 to R160, R901). -/

namespace Sys2Proof.Machine

/-! ### Frames -/

/-- From `s` to `t` at most the register `r` reads differently, and nothing changes that no register shows. -/
structure ChangesOnly (s t : State) (r : Reg) : Prop where
  regs     : ∀ r', r' ≠ r → readReg t r' = readReg s r'
  host     : SameHost s t
  internal : SameInternal s t

/-- Recording an event changes the reading of the event registers alone. -/
theorem readReg_raiseEvent (k : EventCode) (ch off : Nat) (d : Word) (s : State) {r : Reg} (h : isEventReg r = false) :
    readReg (raiseEvent k ch off d s) r = readReg s r := by
  cases r with
  | status | evtInfo | evtData => cases h
  | _ => rfl

/-! ### Channel banks -/

theorem State.chanRead_chanWrite (s : State) (c c' : Nat) (f : Channel → Channel) (g : Channel → F32) :
    (s.chanWrite c f).chanRead c' g = s.chanRead c' (fun ch => g (if c = c' then f ch else ch)) := by
  simp only [State.chanRead, State.chanWrite_chans, List.getElem?_modify]
  cases s.chans[c']? <;> rfl

theorem State.chan_chanWrite (s : State) (c c' : Nat) (f : Channel → Channel) :
    (s.chanWrite c f).chan c' = if c = c' ∧ c' < s.nch then f (s.chan c') else s.chan c' := by
  simp only [State.chan, State.chanWrite_chans, State.chanWrite_params, List.getD_eq_getElem?_getD, List.getElem?_modify]
  rcases Nat.lt_or_ge c' s.nch with h | h
  · simp only [List.getElem?_eq_getElem h, h, and_true]
    rfl
  · simp [h]

theorem State.chanRead_of_lt {s : State} {c : Nat} (h : c < s.nch) (g : Channel → F32) :
    s.chanRead c g = g (s.chan c) := by
  simp [State.chanRead, State.chan, h]

theorem State.chanRead_of_le {s : State} {c : Nat} (h : s.nch ≤ c) (g : Channel → F32) : s.chanRead c g = 0 := by
  simp [State.chanRead, h]

theorem State.chanWrite_of_le {s : State} {c : Nat} (h : s.nch ≤ c) (f : Channel → Channel) : s.chanWrite c f = s := by
  simp [State.chanWrite, List.modify_eq_self h]

theorem sameInternal_chanWrite (s : State) (c : Nat) {f : Channel → Channel}
    (hf : ∀ ch, (f ch).uh = ch.uh ∧ (f ch).dh = ch.dh) : SameInternal s (s.chanWrite c f) := by
  refine ⟨fun c' => ?_, rfl⟩
  rw [State.chan_chanWrite]
  split
  · exact hf _
  · exact ⟨rfl, rfl⟩

/-! ### Replacing one register -/

/-- Replacing one register of an envelope bank. -/
theorem changesOnly_setEnv {s : State} {b : Bank} {e : EnvBank} {x : EnvReg}
    (h : ∀ x', x' ≠ x → envRead e x' = envRead (s.env b) x') : ChangesOnly s (s.setEnv b e) (.env b x) where
  regs := by
    intro r hr
    cases r with
    | env b' x' =>
      by_cases hb : b' = b
      · subst hb
        rw [readReg, State.env_setEnv_self]
        exact h x' fun hx => hr (by rw [hx])
      · rw [readReg, State.env_setEnv_other s b b' e hb, readReg]
    | _ => cases b <;> rfl
  host := by cases b <;> exact ⟨rfl, rfl, rfl, rfl, rfl⟩
  internal := by cases b <;> exact ⟨fun _ => ⟨rfl, rfl⟩, rfl⟩

/-- A plain RW register takes the written value, and nothing else changes (R160(f)). -/
theorem writeReg_plain {s : State} {r : Reg} (h : isPlainReg s.nch r = true) (v : Word) :
    readReg (writeReg v s r) r = v ∧ ChangesOnly s (writeReg v s r) r := by
  cases r with
  | ladIn c | ladFc c | ladRes c =>
    have hc : c < s.nch := of_decide_eq_true h
    refine ⟨?_, ?_, writeReg_sameHost v s _, sameInternal_chanWrite s c fun _ => ⟨rfl, rfl⟩⟩
    · simp only [writeReg, readReg, State.chanRead_chanWrite, State.chanRead_of_lt hc, if_true]
    · intro r' hr
      cases r' with
      | ladIn c' | ladFc c' | ladRes c' | ladOut c' | lstate c' k | osbuf c' i =>
        simp only [writeReg, readReg, State.chanRead_chanWrite]
        congr 1
        funext ch
        split
        next hc' => subst hc'; trivial
        next => rfl
      | _ => rfl
  | env b x =>
    cases x with
    | tAtt | tAccAtt | tPeak | tDec | tAccDec | tEnd =>
      refine ⟨?_, changesOnly_setEnv fun x' hx => ?_⟩
      · simp only [writeReg, writeEnv, readReg, State.env_setEnv_self, envRead]
      · cases x' <;> trivial
    | _ => cases h
  | tanhIn | cutBase | envmod | vcfScale | vcfBias | cutMin | cutMax | dynInL | dynInR | dynSc | dynLtDb =>
    refine ⟨rfl, fun r' hr => ?_, writeReg_sameHost v s _, fun _ => ⟨rfl, rfl⟩, rfl⟩
    cases r' <;> trivial
  | _ => cases h

/-- A register that writes do not reach (R160(a) to (c)). -/
theorem writeReg_ignored {s : State} {r : Reg} (h : isIgnoredReg s.nch r = true) (v : Word) : writeReg v s r = s := by
  cases r with
  | ladIn c | ladFc c | ladRes c => exact State.chanWrite_of_le (of_decide_eq_true h) _
  | env b x =>
    cases x with
    | tAtt | tAccAtt | tPeak | tDec | tAccDec | tEnd | peakLvl => cases h
    | _ => rfl
  | status | irqEn | cfg | fsHost | tanhIn | envIn | cutBase | envmod | vcfScale | vcfBias | cutMin | cutMax | dynInL
  | dynInR | dynSc | dynTaMs | dynTrMs | dynLtDb | dynDepth => cases h
  | _ => rfl

theorem readReg_zero {s : State} {r : Reg} (h : isZeroReg s.nch r = true) : readReg s r = 0 := by
  cases r with
  | ladIn c | ladFc c | ladRes c | ladOut c | lstate c k | osbuf c i => exact State.chanRead_of_le (of_decide_eq_true h) _
  | cmd | reserved => rfl
  | _ => cases h

/-- Settles O9: each clause is a property of the register that the address selects. -/
theorem accessRulesOfAllRegisters : Obligations.AccessRulesOfAllRegisters := by
  unfold Obligations.AccessRulesOfAllRegisters
  intro s addr hr h4
  generalize ha : regAt (addr % 0x1000) = r
  refine ⟨?_, readReg_zero, fun h v => ?_, fun h v => ?_⟩
  · rw [step_read hr h4, busRead, offsetOf, ha]
  · rw [step_write hr h4 ha (by rintro rfl; cases h), writeReg_ignored h]
  · obtain ⟨hv, ho⟩ := writeReg_plain h v
    exact ⟨_, step_write hr h4 ha (by rintro rfl; cases h) v, hv, ho.regs, ho.host, ho.internal⟩

/-! ### STATUS, IRQ_EN and ENV_IN (R110, R113, R133) -/

/-- The bits of the STATUS layout: 3:0, and 16 + c for the channels that exist. -/
theorem getLsbD_statusMask (n : Nat) {i : Nat} (hi : i < 32) :
    (statusMask n).getLsbD i = (decide (i < 4) || (decide (16 ≤ i) && decide (i < 16 + n))) := by
  have h : 0xF + (2 ^ n - 1) * 2 ^ 16 = 2 ^ 16 * (2 ^ n - 1) + (2 ^ 4 - 1) := by omega
  rw [statusMask, BitVec.getLsbD_ofNat, h, Nat.testBit_two_pow_mul_add _ (by decide), Nat.testBit_two_pow_sub_one,
    Nat.testBit_two_pow_sub_one]
  rcases Nat.lt_or_ge i 16 with h16 | h16
  · simp [h16, hi]
  · have h4 : ¬ i < 4 := by omega
    have hn : i - 16 < n ↔ i < 16 + n := by omega
    simp [h16, hi, h4, hn, h16.not_gt]

theorem getLsbD_and_three (v : Word) (i : Nat) : (v &&& 3).getLsbD i = (v.getLsbD i && decide (i < 2)) := by
  have h : (3 : Word).getLsbD i = decide (i < 2) := by
    rw [show (3 : Word) = BitVec.ofNat 32 (2 ^ 2 - 1) from rfl, BitVec.getLsbD_ofNat, Nat.testBit_two_pow_sub_one]
    simp only [← Bool.decide_and, decide_eq_decide]
    omega
  rw [BitVec.getLsbD_and, h]

/-- Settles O10: each of the three write rules is a mask, read bit by bit. -/
theorem statusIrqEnAndEnvInWrites : Obligations.StatusIrqEnAndEnvInWrites := by
  unfold Obligations.StatusIrqEnAndEnvInWrites
  intro s v hr _
  refine ⟨step_write (r := .status) hr rfl rfl nofun v, ⟨_, step_write (r := .irqEn) hr rfl rfl nofun v, fun i hi => ?_⟩,
    ⟨_, step_write (r := .envIn) hr rfl rfl nofun v, fun i _ => getLsbD_and_three v i⟩⟩
  rw [BitVec.getLsbD_and, getLsbD_statusMask _ hi]

/-- Settles O16: two words meet exactly when some bit is 1 in both. -/
theorem irqIsAnEnabledPendingSource : Obligations.IrqIsAnEnabledPendingSource := by
  unfold Obligations.IrqIsAnEnabledPendingSource
  intro s
  have h0 : s.status &&& s.irqEn = 0#32 ↔ ∀ i, i < 32 → (s.status &&& s.irqEn).getLsbD i = false :=
    ⟨fun h i _ => by rw [h, BitVec.getLsbD_zero], fun h => BitVec.eq_of_getLsbD_eq fun i hi => by
      rw [h i hi, BitVec.getLsbD_zero]⟩
  simp [State.irq, h0]

end Sys2Proof.Machine
end

section
/-! PROOFS. The writes that legalize their value: FS_HOST, PEAK_LVL, DYN_TA_MS, DYN_TR_MS and DYN_DEPTH (R115, R130, R150). -/

namespace Sys2Proof.Machine

/-! ### One shape of write -/

/-- A write that replaces one register by a stored value, and records CFGADJ over that when the value was adjusted. -/
theorem warlWrite_of_changesOnly {s t : State} {off : Nat} {r : Reg} {v x : Word} {adjusted : Bool}
    (hstep : step (s.withAccess (.write .b32 off v)) = .next (if adjusted then cfgAdjusted off v t else t))
    (ht : ChangesOnly s t r) (hr : isEventReg r = false) (hx : readReg t r = x) : WarlWrite s off r v x adjusted := by
  have hs : t.status = s.status := ht.regs .status (by rintro rfl; cases hr)
  have hi : t.evtInfo = s.evtInfo := ht.regs .evtInfo (by rintro rfl; cases hr)
  have hd : t.evtData = s.evtData := ht.regs .evtData (by rintro rfl; cases hr)
  cases adjusted with
  | false => exact ⟨t, hstep, hx, fun r' hr' _ => ht.regs r' hr', ⟨hs, hi, hd⟩, ht.host, ht.internal⟩
  | true =>
    refine ⟨_, hstep, (readReg_raiseEvent _ _ _ _ _ hr).trans hx, fun r' hr' he => ?_,
      ⟨congrArg (· ||| statusBit .cfgadj 0) hs, rfl, rfl⟩, ht.host, ht.internal⟩
    exact (readReg_raiseEvent _ _ _ _ _ he).trans (ht.regs r' hr')

theorem changesOnly_fsHost (s : State) (x : F32) : ChangesOnly s { s with fsHost := x } .fsHost := by
  refine ⟨fun r' hr => ?_, ⟨rfl, rfl, rfl, rfl, rfl⟩, fun _ => ⟨rfl, rfl⟩, rfl⟩
  cases r' <;> trivial

theorem changesOnly_peakLvl (s : State) (b : Bank) (x : F32) :
    ChangesOnly s (s.setEnv b { s.env b with peakLvl := x }) (.env b .peakLvl) :=
  changesOnly_setEnv fun x' hx => by cases x' <;> trivial

/-- Replacing registers of the dynamics unit: no register holds the pairs of the queue. -/
theorem changesOnly_dyn {s : State} {d : DynUnit} {r : Reg} (hq : d.queue = s.dyn.queue)
    (h : ∀ r', r' ≠ r → readReg { s with dyn := d } r' = readReg s r') : ChangesOnly s { s with dyn := d } r :=
  ⟨h, ⟨rfl, rfl, rfl, rfl, rfl⟩, fun _ => ⟨rfl, rfl⟩, hq⟩

/-! ### FS_HOST (R115) -/

theorem val32_fsMin : val32 Config.fsMin = 44100 := by
  rw [val32, show unpack32 Config.fsMin = .fin false 11289600 (-8) by decide, Fp.val]
  norm_num

theorem val32_fsMax : val32 Config.fsMax = 768000 := by
  rw [val32, show unpack32 Config.fsMax = .fin false 12288000 (-4) by decide, Fp.val]
  norm_num

theorem f32Lt_iff_val {a b : F32} (ha : isFinite32 a = true) (hb : isFinite32 b = true) :
    f32Lt a b = true ↔ val32 a < val32 b :=
  ((binary32_eq ▸ f32Lt_eq ▸ fmt32.isLessThan_ltb : IsLessThan binary32 f32Lt) a b).2.1 ha hb

theorem f32Le_iff_val {a b : F32} (ha : isFinite32 a = true) (hb : isFinite32 b = true) :
    f32Le a b = true ↔ val32 a ≤ val32 b :=
  ((binary32_eq ▸ f32Le_eq ▸ fmt32.isAtMost_leb : IsAtMost binary32 f32Le) a b).2.1 ha hb

theorem isNaN32_eq_false_of_finite {x : F32} (h : isFinite32 x = true) : isNaN32 x = false := by
  simp only [isFinite32, isNaN32, decide_eq_true_eq, decide_eq_false_iff_not] at *
  omega

theorem fsStored_low {v : F32} (h : IsNaN v ∨ v = 0xFF800000#32 ∨ (isFinite32 v = true ∧ val32 v < 44100)) :
    fsStored v = 0x472C4400#32 := by
  rw [fsStored, if_pos]
  rw [Bool.or_eq_true]
  rcases h with h | rfl | ⟨hf, hv⟩
  · exact .inl h
  · exact .inr (by decide)
  · exact .inr ((f32Lt_iff_val hf (by decide)).2 (val32_fsMin ▸ hv))

theorem fsStored_high {v : F32} (h : v = 0x7F800000#32 ∨ (isFinite32 v = true ∧ 768000 < val32 v)) :
    fsStored v = 0x493B8000#32 := by
  rcases h with rfl | ⟨hf, hv⟩
  · decide
  · have hl : ¬ f32Lt v Config.fsMin = true := by
      rw [f32Lt_iff_val hf (by decide), val32_fsMin]
      linarith
    rw [fsStored, isNaN32_eq_false_of_finite hf, Bool.false_or, if_neg hl,
      if_pos ((f32Lt_iff_val (by decide) hf).2 (val32_fsMax ▸ hv))]

theorem fsStored_within {v : F32} (hf : isFinite32 v = true) (hl : 44100 ≤ val32 v) (hh : val32 v ≤ 768000) :
    fsStored v = v := by
  have hl' : ¬ f32Lt v Config.fsMin = true := by
    rw [f32Lt_iff_val hf (by decide), val32_fsMin]
    exact hl.not_gt
  have hh' : ¬ f32Lt Config.fsMax v = true := by
    rw [f32Lt_iff_val (by decide) hf, val32_fsMax]
    exact hh.not_gt
  rw [fsStored, isNaN32_eq_false_of_finite hf, Bool.false_or, if_neg hl', if_neg hh']

/-- Settles O12: the comparisons of the write rule are those of the values. -/
theorem fsHostWriteRule : Obligations.FsHostWriteRule := by
  unfold Obligations.FsHostWriteRule
  intro s v hr
  refine ⟨fsStored v, fsStored_low, fsStored_high, fun ⟨hf, hl, hh⟩ => fsStored_within hf hl hh, ?_⟩
  refine warlWrite_of_changesOnly ?_ (changesOnly_fsHost s (fsStored v)) rfl rfl
  rw [step_write (r := .fsHost) hr rfl rfl nofun, writeReg, writeFsHost]
  by_cases h : fsStored v = v <;> simp [h]

/-! ### PEAK_LVL, DYN_TA_MS, DYN_TR_MS and DYN_DEPTH (R130, R150) -/

theorem isFinite32_envMin {p : Params} (h : paramsOk p = true) : isFinite32 p.envMin = true :=
  (Bool.and_eq_true_iff.1 (peakLvlLegal_envMin h)).1

theorem peakLvlLegal_iff {p : Params} (h : paramsOk p = true) (v : F32) :
    peakLvlLegal p.envMin v = true ↔ isFinite32 v = true ∧ val32 p.envMin ≤ val32 v := by
  rw [peakLvlLegal, Bool.and_eq_true]
  exact and_congr_right fun hv => f32Le_iff_val (isFinite32_envMin h) hv

theorem dynTimeLegal_iff (v : F32) : dynTimeLegal v = true ↔ ¬ IsNaN v ∧ v.getLsbD 31 = false := by
  have hn : neg32 v = v.getLsbD 31 := (Fmt.neg_eq_msb v).trans (BitVec.msb_eq_getLsbD_last v)
  simp [dynTimeLegal, IsNaN, hn]

theorem warlWrite_peakLvl {s : State} (hr : s.rstN = true) (b : Bank) (v : Word) :
    WarlWrite s (0x218 + bankBase b) (.env b .peakLvl) v
      (if peakLvlLegal s.params.envMin v then v else s.params.envMin) (!peakLvlLegal s.params.envMin v) := by
  have ha : regAt (offsetOf (0x218 + bankBase b)) = .env b .peakLvl := by cases b <;> rfl
  have h4 : (0x218 + bankBase b) % 4 = 0 := by cases b <;> rfl
  have ho : peakLvlOffset b = 0x218 + bankBase b := by cases b <;> rfl
  refine warlWrite_of_changesOnly ?_ (changesOnly_peakLvl s b _) rfl
    (congrArg (fun e => envRead e .peakLvl) (State.env_setEnv_self s b _))
  rw [step_write hr h4 ha nofun, writeReg, writeEnv, writePeakLvl, ho]
  cases peakLvlLegal s.params.envMin v <;> rfl

theorem warlWrite_dynTaMs {s : State} (hr : s.rstN = true) (v : Word) :
    WarlWrite s 0x30C .dynTaMs v (dynTimeStored v) (!dynTimeLegal v) := by
  have ht : ChangesOnly s { s with dyn := { s.dyn with taMs := dynTimeStored v } } .dynTaMs :=
    changesOnly_dyn rfl fun r' hr => by cases r' <;> trivial
  refine warlWrite_of_changesOnly ?_ ht rfl rfl
  rw [step_write (r := .dynTaMs) hr rfl rfl nofun, writeReg, writeDynTaMs]
  cases dynTimeLegal v <;> rfl

theorem warlWrite_dynTrMs {s : State} (hr : s.rstN = true) (v : Word) :
    WarlWrite s 0x310 .dynTrMs v (dynTimeStored v) (!dynTimeLegal v) := by
  have ht : ChangesOnly s { s with dyn := { s.dyn with trMs := dynTimeStored v } } .dynTrMs :=
    changesOnly_dyn rfl fun r' hr => by cases r' <;> trivial
  refine warlWrite_of_changesOnly ?_ ht rfl rfl
  rw [step_write (r := .dynTrMs) hr rfl rfl nofun, writeReg, writeDynTrMs]
  cases dynTimeLegal v <;> rfl

theorem warlWrite_dynDepth_le {s : State} (hr : s.rstN = true) {v : Word} (h : v.toNat ≤ s.params.laMax.toNat) :
    WarlWrite s 0x318 .dynDepth v v false := by
  have ht : ChangesOnly s { s with dyn := { s.dyn with depth := v } } .dynDepth :=
    changesOnly_dyn rfl fun r' hr => by cases r' <;> trivial
  refine warlWrite_of_changesOnly ?_ ht rfl rfl
  rw [step_write (r := .dynDepth) hr rfl rfl nofun, writeReg, writeDynDepth, if_pos h]
  rfl

theorem warlWrite_dynDepth_gt {s : State} (hr : s.rstN = true) {v : Word} (h : s.params.laMax.toNat < v.toNat) :
    WarlWrite s 0x318 .dynDepth v s.params.laMax true := by
  have ht : ChangesOnly s { s with dyn := { s.dyn with depth := s.params.laMax } } .dynDepth :=
    changesOnly_dyn rfl fun r' hr => by cases r' <;> trivial
  refine warlWrite_of_changesOnly ?_ ht rfl rfl
  rw [step_write (r := .dynDepth) hr rfl rfl nofun, writeReg, writeDynDepth, if_neg h.not_ge]
  rfl

/-- Settles O13: each write is one `WarlWrite`, whose stored value and event follow from the legality of the value. -/
theorem legalizingWrites : Obligations.LegalizingWrites := by
  unfold Obligations.LegalizingWrites
  intro s v hr hp
  have hta := warlWrite_dynTaMs hr v
  have htr := warlWrite_dynTrMs hr v
  refine ⟨fun b => ?_, fun h => ?_, fun h => ?_, warlWrite_dynDepth_le hr, warlWrite_dynDepth_gt hr⟩
  · have hb := warlWrite_peakLvl hr b v
    rw [← peakLvlLegal_iff hp]
    exact ⟨fun h => by rwa [h] at hb, fun h => by rwa [(Bool.not_eq_true _).mp h] at hb⟩
  · rw [dynTimeStored, (dynTimeLegal_iff v).2 h] at hta htr
    exact ⟨hta, htr⟩
  · have hf : dynTimeLegal v = false := by
      rwa [← Bool.not_eq_true, dynTimeLegal_iff, not_and_or, not_not, Bool.not_eq_false]
    rw [dynTimeStored, hf] at hta htr
    exact ⟨hta, htr⟩

end Sys2Proof.Machine
end

section
/-! PROOFS. A set STATUS bit stays set but for its three causes (R110, R910, R1000): a command other than RESET and a register
write other than that of STATUS only add STATUS bits. -/

namespace Sys2Proof.Machine

/-! ### The word of a decoded command (R301, R304) -/

/-- A word is its four fields. -/
theorem toNat_fields (w : Word) :
    w.toNat = opcOf w * 2 ^ 24 + (chOf w).toNat * 2 ^ 20 + (subOf w).toNat * 2 ^ 16 + rsvOf w := by
  simp only [opcOf, chOf, subOf, rsvOf, BitVec.toNat_ofNat]
  omega

theorem decodePlain_ok {w : Word} {i j : Instr} (h : decodePlain w i = .ok j) : chOf w = 0 ∧ subOf w = 0 ∧ i = j := by
  unfold decodePlain at h
  split_ifs at h with hc hs
  cases h
  exact ⟨not_not.1 hc, not_not.1 hs, rfl⟩

theorem decodeChannel_ok {w : Word} {f : BitVec 4 → Instr} {j : Instr} (h : decodeChannel w f = .ok j) :
    subOf w = 0 ∧ f (chOf w) = j := by
  unfold decodeChannel at h
  split_ifs at h with hs
  cases h
  exact ⟨not_not.1 hs, rfl⟩

/-- The fields of a word that decodes are those of its command. -/
theorem decodeOpc_fields {w : Word} {i : Instr} (h : decodeOpc w = .ok i) :
    opcOf w = i.opc ∧ chOf w = i.ch ∧ subOf w = i.sub := by
  unfold decodeOpc at h
  split at h
  case h_6 ho =>
    cases h
    exact ⟨ho, rfl, rfl⟩
  case h_5 ho | h_7 ho | h_8 ho =>
    obtain ⟨hs, rfl⟩ := decodeChannel_ok h
    exact ⟨ho, rfl, hs⟩
  case h_13 => cases h
  all_goals
    rename_i ho
    obtain ⟨hc, hs, rfl⟩ := decodePlain_ok h
    exact ⟨ho, hc, hs⟩

/-- A word that decodes to a command is that command's word. -/
theorem encode_of_decode {w : Word} {i : Instr} (h : decode w = .ok i) : encode i = w := by
  unfold decode at h
  split_ifs at h with hr
  obtain ⟨ho, hc, hs⟩ := decodeOpc_fields h
  have hw := toNat_fields w
  rw [not_not.1 hr, ho, hc, hs, Nat.add_zero] at hw
  rw [encode, ← hw, BitVec.ofNat_toNat, BitVec.setWidth_eq]

/-! ### STATUS bits are only added -/

/-- Every STATUS bit that is set in `s` is set in `t`. -/
def KeepsStatus (s t : State) : Prop := ∀ i, s.status.getLsbD i = true → t.status.getLsbD i = true

theorem keepsStatus_of_eq {s t : State} (h : t.status = s.status) : KeepsStatus s t := fun _ hi => h ▸ hi

theorem keepsStatus_raiseEvent (k : EventCode) (ch off : Nat) (d : Word) {s t : State} (h : t.status = s.status) :
    KeepsStatus s (raiseEvent k ch off d t) := by
  intro i hi
  rw [raiseEvent_status, h, BitVec.getLsbD_or, hi, Bool.true_or]

theorem keepsStatus_finishDecim (c : Nat) (d : Decimated) {s t : State} (h : t.status = s.status) :
    KeepsStatus s (finishDecim c d t) := by
  rcases finishDecim_spec c d t with ⟨-, e⟩ | ⟨v, -, e⟩ <;> rw [e]
  · exact keepsStatus_of_eq h
  · exact keepsStatus_raiseEvent _ _ _ _ h

theorem keepsStatus_dynTick (tr : TR) (s : State) : KeepsStatus s (dynTick tr s) := by
  rcases dynTick_cases tr s _ rfl with ⟨-, -, e⟩ | ⟨-, e⟩ <;> rw [e]
  · exact keepsStatus_of_eq rfl
  · exact keepsStatus_raiseEvent _ _ _ _ rfl

theorem tickEnv_status (tr : TR) (b : Bank) (s : State) : (tickEnv tr b s).status = s.status := State.setEnv_status ..

theorem keepsStatus_bassFrame {tr : TR} {s t : State} (h : bassFrame tr s = some t) : KeepsStatus s t := by
  obtain ⟨d, -, rfl⟩ := Option.map_eq_some_iff.1 h
  have hs : (tickEnv tr .vcf (tickEnv tr .vca s)).status = s.status := by rw [tickEnv_status, tickEnv_status]
  exact keepsStatus_finishDecim 0 d hs

/-- RESET is the only command that clears a STATUS bit. -/
theorem keepsStatus_exec {i : Instr} {s t : State} (hi : i ≠ .reset) (h : exec i s = .next t) : KeepsStatus s t := by
  cases hl : s.legal i with
  | false =>
    rw [exec_illegal i s hl] at h
    cases h
    exact keepsStatus_raiseEvent _ _ _ _ rfl
  | true =>
    cases i with
    | reset => exact absurd rfl hi
    | nop | clrst | tanh =>
      cases h
      exact keepsStatus_of_eq rfl
    | vca | vcf =>
      cases h
      exact keepsStatus_of_eq (tickEnv_status ..)
    | dyn =>
      cases h
      exact keepsStatus_dynTick _ _
    | ups c =>
      rw [exec_ups s c hl] at h
      cases h
      exact keepsStatus_of_eq rfl
    | dec c =>
      rw [exec_dec s c hl] at h
      cases h
      exact keepsStatus_finishDecim _ _ rfl
    | lstep c k =>
      simp only [exec, execLstep, hl, if_true] at h
      split at h <;> cases h
      exact keepsStatus_of_eq rfl
    | filt c =>
      simp only [exec, execFilt, hl, if_true] at h
      split at h <;> cases h
      exact keepsStatus_finishDecim _ _ rfl
    | bass =>
      simp only [exec, execBass, hl, if_true] at h
      split at h <;> cases h
      next hb => exact keepsStatus_bassFrame hb

/-- A write that stores its value, or stores a replacement and records CFGADJ. -/
theorem keepsStatus_adjusted (b : Prop) [Decidable b] (off : Nat) (v : Word) {s t u : State} (ht : t.status = s.status)
    (hu : u.status = s.status) : KeepsStatus s (if b then t else cfgAdjusted off v u) := by
  split
  · exact keepsStatus_of_eq ht
  · exact keepsStatus_raiseEvent _ _ _ _ hu

theorem keepsStatus_writeCfg (v : Word) (s : State) : KeepsStatus s (writeCfg v s) := by
  have ht : (if (cfgStored s.params v).toNat % 4 = s.cfg.toNat % 4 then s
      else { s with chans := s.chans.map (clearOversampler s.params) }).status = s.status := by split <;> rfl
  unfold writeCfg
  dsimp only
  split
  · exact keepsStatus_raiseEvent _ _ _ _ ht
  · exact keepsStatus_of_eq ht

theorem keepsStatus_writeReg (v : Word) (s : State) {r : Reg} (hr : r ≠ .status) : KeepsStatus s (writeReg v s r) := by
  cases r with
  | status => exact absurd rfl hr
  | cfg => exact keepsStatus_writeCfg v s
  | fsHost | dynTaMs | dynTrMs | dynDepth => exact keepsStatus_adjusted _ _ _ rfl rfl
  | env b x =>
    cases x with
    | peakLvl => exact keepsStatus_adjusted _ _ _ (State.setEnv_status ..) (State.setEnv_status ..)
    | tAtt | tAccAtt | tPeak | tDec | tAccDec | tEnd => exact keepsStatus_of_eq (State.setEnv_status ..)
    | _ => exact keepsStatus_of_eq rfl
  | _ => exact keepsStatus_of_eq rfl

/-! ### The causes -/

theorem keepsStatus_command {w : Word} {s t : State} (h : command w s = .next t) :
    KeepsStatus s t ∨ w = 0x01000000#32 := by
  unfold command at h
  split at h
  next i hd =>
    by_cases hi : i = .reset
    · subst hi
      exact .inr (encode_of_decode hd).symm
    · exact .inl (keepsStatus_exec hi h)
  next =>
    cases h
    exact .inl (keepsStatus_raiseEvent _ _ _ _ rfl)

/-- An access that clears a STATUS bit writes STATUS, or the RESET word to CMD. -/
theorem keepsStatus_busAccess {a : Access} {s t : State} (h : busAccess a s = .next t) :
    KeepsStatus s t ∨
    (∃ addr v, a = .write .b32 addr v ∧ addr % 0x1000 = 0x004 ∧ t.status = s.status &&& ~~~v) ∨
    (∃ addr, a = .write .b32 addr 0x01000000#32 ∧ addr % 0x1000 = 0x000) := by
  have hoff : ∀ {addr : Nat} {r : Reg}, addr % 4 = 0 → regAt (offsetOf addr) = r → r ≠ .reserved →
      regOffset r = some (addr % 0x1000) := by
    rintro addr _ h4 rfl hr
    exact (regOffset_regAt (by unfold offsetOf; omega)).resolve_left hr
  rcases busAccess_cases h with
    ⟨_, -, -, rfl⟩ | ⟨_, _, -, -, rfl⟩ | ⟨_, _, _, -, -, rfl⟩ | ⟨addr, w, rfl, h4, hreg, hc⟩ | ⟨addr, v, rfl, h4, -, rfl⟩
  · exact .inl (keepsStatus_of_eq rfl)
  · exact .inl (keepsStatus_raiseEvent _ _ _ _ rfl)
  · exact .inl (keepsStatus_raiseEvent _ _ _ _ rfl)
  · rcases keepsStatus_command hc with hk | rfl
    · exact .inl hk
    · exact .inr (.inr ⟨addr, rfl, (Option.some.inj (hoff h4 hreg nofun)).symm⟩)
  · by_cases hs : regAt (offsetOf addr) = .status
    · rw [hs]
      exact .inr (.inl ⟨addr, v, rfl, (Option.some.inj (hoff h4 hs nofun)).symm, rfl⟩)
    · exact .inl (keepsStatus_writeReg v s hs)

/-- Settles O17: among the inputs that a step can serve, only three can clear a STATUS bit. -/
theorem statusBitsAreSticky : Obligations.StatusBitsAreSticky := by
  unfold Obligations.StatusBitsAreSticky
  intro s t i ht hi hc
  have hk : ¬ KeepsStatus s t := fun h => Bool.false_ne_true (hc.symm.trans (h i hi))
  rcases step_cases ht with ⟨-, rfl⟩ | ⟨rest, hin, -⟩ | ⟨rest, -, rfl⟩ | ⟨a, rest, -, -, rfl⟩ | ⟨a, rest, hin, hr, ha⟩
  · exact absurd (keepsStatus_of_eq rfl) hk
  · exact .inr (.inr ⟨rest, hin⟩)
  · exact absurd (keepsStatus_of_eq rfl) hk
  · exact absurd (keepsStatus_of_eq (by cases a <;> rfl)) hk
  · rcases keepsStatus_busAccess ha with h | ⟨addr, v, rfl, ho, hs⟩ | ⟨addr, rfl, ho⟩
    · exact absurd h hk
    · refine .inl ⟨addr, v, rest, hin, hr, ho, ?_⟩
      rw [hs, BitVec.getLsbD_and, hi, Bool.true_and, BitVec.getLsbD_not, Bool.and_eq_false_iff] at hc
      have hlt : i < 32 := BitVec.lt_of_getLsbD hi
      simpa [hlt] using hc
    · exact .inr (.inl ⟨addr, rest, hin, hr, ho⟩)

end Sys2Proof.Machine
end

section
/-! PROOFS. Independence of the ladder channels (R125): what a channel command leaves in its channel, and the event it records,
is one function of the parameters, CFG, FS_HOST and that channel. -/

namespace Sys2Proof.Machine

/-! ### The result of a channel command -/

/-- What UPS, LSTEP, DEC and FILT make of their channel; `none` when the ladder's coefficients are not supplied. -/
def channelResult (p : Params) (cfg : Word) (fs : F32) (ch : Channel) : Instr → Option Decimated
  | .ups _ => some ⟨upsample p (osfOf cfg) ch, none⟩
  | .lstep _ i => (ladderStep ⟨p, cfg, fs, ch.ladFc⟩ i.toNat ch).map (⟨·, none⟩)
  | .dec _ => some (decimate p (osfOf cfg) ch)
  | .filt _ => ladderFrame ⟨p, cfg, fs, ch.ladFc⟩ ch
  | _ => none

/-- The commands on channel `c`. -/
def OnChannel (c : BitVec 4) (i : Instr) : Prop := ∃ k, i = .ups c ∨ i = .lstep c k ∨ i = .dec c ∨ i = .filt c

theorem OnChannel.lt {c : BitVec 4} {i : Instr} {s : State} (h : OnChannel c i) (hl : s.legal i = true) :
    c.toNat < s.nch := by
  obtain ⟨k, rfl | rfl | rfl | rfl⟩ := h <;> simp_all [State.legal, Instr.wellFormed]

/-- A legal channel command reads its channel, the parameters, CFG and FS_HOST, and puts its result back into the channel. -/
theorem exec_onChannel {c : BitVec 4} {i : Instr} {s : State} (h : OnChannel c i) (hl : s.legal i = true) :
    exec i s = (channelResult s.params s.cfg s.fsHost (s.chan c.toNat) i).elim (.refused .gresNotSupplied)
      fun d => .next (finishDecim c.toNat d s) := by
  obtain ⟨k, rfl | rfl | rfl | rfl⟩ := h
  · exact exec_ups s c hl
  · simp only [exec, execLstep, hl, if_true, channelResult, State.ladderCtx]
    cases ladderStep ⟨s.params, s.cfg, s.fsHost, (s.chan c.toNat).ladFc⟩ k.toNat (s.chan c.toNat) <;> rfl
  · exact exec_dec s c hl
  · simp only [exec, execFilt, hl, if_true, channelResult, State.ladderCtx]
    cases ladderFrame ⟨s.params, s.cfg, s.fsHost, (s.chan c.toNat).ladFc⟩ (s.chan c.toNat) <;> rfl

theorem chan_finishDecim_self {s : State} {c : Nat} (h : c < s.nch) (d : Decimated) : (finishDecim c d s).chan c = d.ch := by
  rcases finishDecim_spec c d s with ⟨-, e⟩ | ⟨v, -, e⟩ <;> rw [e]
  · exact State.chan_setChan_self s c d.ch h
  · exact State.chan_setChan_self s c d.ch h

theorem chan_finishDecim_other {s : State} {c c' : Nat} (h : c' ≠ c) (d : Decimated) :
    (finishDecim c d s).chan c' = s.chan c' := by
  rcases finishDecim_spec c d s with ⟨-, e⟩ | ⟨v, -, e⟩ <;> rw [e]
  · exact State.chan_setChan_other s c c' d.ch h
  · exact State.chan_setChan_other s c c' d.ch h

/-! ### The event of a channel command -/

/-- No event from `s₁` to `t₁` and from `s₂` to `t₂`, or the same one with the same data. -/
def SameEvent (s₁ t₁ s₂ t₂ : State) : Prop :=
  (NoEvent s₁ t₁ ∧ NoEvent s₂ t₂) ∨
    ∃ code ch off d, Recorded s₁ t₁ code ch off d ∧ Recorded s₂ t₂ code ch off d

theorem sameEvent_finishDecim (s₁ s₂ : State) (c : Nat) (d : Decimated) :
    SameEvent s₁ (finishDecim c d s₁) s₂ (finishDecim c d s₂) := by
  unfold finishDecim
  cases d.bad with
  | none => exact .inl ⟨⟨rfl, rfl, rfl⟩, ⟨rfl, rfl, rfl⟩⟩
  | some v => exact .inr ⟨.laddiv, c, 0, v, ⟨rfl, rfl, rfl⟩, ⟨rfl, rfl, rfl⟩⟩

theorem sameEvent_illegalWord (s₁ s₂ : State) (w : Word) : SameEvent s₁ (illegalWord w s₁) s₂ (illegalWord w s₂) :=
  .inr ⟨.illcmd, 0, 0, w, ⟨rfl, rfl, rfl⟩, ⟨rfl, rfl, rfl⟩⟩

/-! ### Two states that agree on a channel -/

/-- The states agree on all that a command on channel `c` reads. -/
structure AgreeOn (c : Nat) (s₁ s₂ : State) : Prop where
  params : s₁.params = s₂.params
  nch    : s₁.nch = s₂.nch
  cfg    : s₁.cfg = s₂.cfg
  fsHost : s₁.fsHost = s₂.fsHost
  chan   : s₁.chan c = s₂.chan c

theorem AgreeOn.legal {c : Nat} {s₁ s₂ : State} (h : AgreeOn c s₁ s₂) (i : Instr) : s₁.legal i = s₂.legal i := by
  rw [State.legal, State.factor, h.nch, h.cfg]
  rfl

/-- A channel command leaves the other channels, and does the same to its own channel in both states. -/
theorem AgreeOn.exec {c : BitVec 4} {i : Instr} {s₁ s₂ t₁ : State} (h : AgreeOn c.toNat s₁ s₂) (hi : OnChannel c i)
    (ht : exec i s₁ = .next t₁) :
    (∀ c', c' ≠ c.toNat → t₁.chan c' = s₁.chan c') ∧
    ∃ t₂, exec i s₂ = .next t₂ ∧ t₂.chan c.toNat = t₁.chan c.toNat ∧ SameEvent s₁ t₁ s₂ t₂ := by
  cases hl : s₁.legal i with
  | false =>
    rw [exec_illegal i s₁ hl] at ht
    cases ht
    refine ⟨fun _ _ => rfl, _, exec_illegal i s₂ (h.legal i ▸ hl), h.chan.symm, sameEvent_illegalWord ..⟩
  | true =>
    have hl₂ : s₂.legal i = true := h.legal i ▸ hl
    have he₂ := exec_onChannel hi hl₂
    rw [← h.params, ← h.cfg, ← h.fsHost, ← h.chan] at he₂
    rw [exec_onChannel hi hl] at ht
    cases hd : channelResult s₁.params s₁.cfg s₁.fsHost (s₁.chan c.toNat) i with
    | none =>
      rw [hd] at ht
      cases ht
    | some d =>
      rw [hd] at ht he₂
      cases ht
      refine ⟨fun c' hc => chan_finishDecim_other hc d, _, he₂, ?_, sameEvent_finishDecim ..⟩
      rw [chan_finishDecim_self (hi.lt hl₂), chan_finishDecim_self (hi.lt hl)]

/-- Settles O38: both runs put the same result into the channel, and the data of the event are part of it. -/
theorem channelsAreIndependent : Obligations.ChannelsAreIndependent := by
  unfold Obligations.ChannelsAreIndependent
  intro s₁ s₂ t₁ c k i hi hp hn hg hf hc ht
  obtain ⟨ho, t₂, ht₂, hch, he⟩ := AgreeOn.exec ⟨hp, hn, hg, hf, hc⟩ ⟨k, hi⟩ ht
  refine ⟨ho, t₂, ht₂, hch, he.imp_right ?_⟩
  rintro ⟨code, ch, off, d, h₁, h₂⟩
  exact ⟨code, ch, off, d, d, h₁, h₂, .inl rfl⟩

end Sys2Proof.Machine
end

section
/-! PROOFS. Single accesses: bus errors, a command word as the next input, and the same access twice (R202, R205, R210,
R300). -/

namespace Sys2Proof.Machine

/-! ### Bus errors (R202) -/

theorem accessLegal_eq_false {w : Width} {addr : Nat} (h : w ≠ .b32 ∨ addr % 4 ≠ 0) : accessLegal w addr = false := by
  simpa [accessLegal, imp_iff_not_or] using h

/-- An access that is not legal is a bus error. -/
theorem step_busError {s : State} {w : Width} {addr : Nat} (hr : s.rstN = true) (hl : accessLegal w addr = false) :
    step (s.withAccess (.read w addr)) = .next (busErrorRead addr s) ∧
    ∀ v, step (s.withAccess (.write w addr v)) = .next (busErrorWrite addr v s) := by
  simp [step_withAccess s _ hr, busAccess, hl]

theorem statusBit_buserr : statusBit .buserr 0 = 0x00000002#32 := rfl

theorem eventInfo_buserr (addr : Nat) :
    eventInfo .buserr 0 (offsetOf addr) = BitVec.ofNat 32 (addr % 0x1000 * 2 ^ 12 + 2) := by
  simp [eventInfo, offsetOf, EventCode.num]

/-- Settles O7: the width or the alignment makes the access illegal, and a bus error records the event BUSERR. -/
theorem busErrorAccessEffects : Obligations.BusErrorAccessEffects := by
  unfold Obligations.BusErrorAccessEffects
  intro s w addr v hr h
  obtain ⟨hread, hwrite⟩ := step_busError hr (accessLegal_eq_false h)
  rw [hread, hwrite, busErrorRead, busErrorWrite, raiseEvent, raiseEvent, statusBit_buserr, eventInfo_buserr]
  exact ⟨rfl, rfl⟩

/-! ### A command word as the next input (R210, R300) -/

/-- A write of `w` to CMD runs the command of `w`, with that input served. -/
theorem step_commandInput {s : State} {w : Word} {rest : List Input} (hr : s.rstN = true)
    (hi : s.inputs = commandInput w :: rest) : step s = command w { s with inputs := rest } := by
  rw [step, serveNext, hi]
  exact if_pos hr

theorem step_writeCmd {s : State} (hr : s.rstN = true) (w : Word) :
    step (s.withAccess (.write .b32 0x000 w)) = command w s :=
  step_commandInput (s := s.withAccess _) hr rfl

theorem step_idle {s : State} (h : s.inputs = []) : step s = .next s := by
  rw [step, serveNext, h]

theorem command_of_decode {w : Word} {i : Instr} (h : decode w = .ok i) (s : State) : command w s = exec i s := by
  rw [command, h]

theorem withFetchWord_inputs_toNat (s : State) (w : Word) :
    (s.withFetchWord 32 w.toNat).inputs = commandInput w :: s.inputs := by
  rw [State.withFetchWord_inputs, Nat.mod_eq_of_lt w.isLt, BitVec.ofNat_toNat, BitVec.setWidth_eq]

/-- Settles O6: `withFetchWord` places a write to CMD, and a write to CMD runs what its word decodes to. -/
theorem stepRunsTheCommandWord : Obligations.StepRunsTheCommandWord := by
  unfold Obligations.StepRunsTheCommandWord
  intro s w i hd
  refine ⟨?_, fun rest hr hi => ?_, step_idle⟩
  · exact (step_commandInput rfl (withFetchWord_inputs_toNat s w)).trans (command_of_decode hd _)
  · exact (step_commandInput hr hi).trans (command_of_decode hd _)

/-! ### The same access twice (R205) -/

@[simp] theorem raiseEvent_raiseEvent (k : EventCode) (ch off : Nat) (d : Word) (s : State) :
    raiseEvent k ch off d (raiseEvent k ch off d s) = raiseEvent k ch off d s := by
  simp [raiseEvent, BitVec.or_assoc]

/-- Recording CFGADJ over a state that is as its recording left it. -/
theorem cfgAdjusted_of_eq {off : Nat} {v : Word} {s t : State} (h : t = cfgAdjusted off v s) :
    cfgAdjusted off v t = cfgAdjusted off v s := by
  rw [h]
  exact raiseEvent_raiseEvent ..

@[simp] theorem State.setEnv_setEnv (s : State) (b : Bank) (e e' : EnvBank) :
    (s.setEnv b e).setEnv b e' = s.setEnv b e' := by
  cases b <;> rfl

@[simp] theorem State.setEnv_raiseEvent (k : EventCode) (ch off : Nat) (d : Word) (s : State) (b : Bank) (e : EnvBank) :
    (raiseEvent k ch off d s).setEnv b e = raiseEvent k ch off d (s.setEnv b e) := by
  cases b <;> rfl

@[simp] theorem State.env_raiseEvent (k : EventCode) (ch off : Nat) (d : Word) (s : State) (b : Bank) :
    (raiseEvent k ch off d s).env b = s.env b := by
  cases b <;> rfl

theorem State.chanWrite_chanWrite (s : State) (c : Nat) {f : Channel → Channel} (hf : ∀ ch, f (f ch) = f ch) :
    (s.chanWrite c f).chanWrite c f = s.chanWrite c f := by
  rw [State.chanWrite, State.chanWrite_chans, List.modify_modify_eq, show f ∘ f = f from funext hf]
  rfl

/-- A read changes the returned word alone, which no register shows. -/
theorem busRead_busRead (addr : Nat) (s : State) : busRead addr (busRead addr s) = busRead addr s := by
  have h (r : Reg) : readReg (busRead addr s) r = readReg s r := by
    cases r with
    | env b x => cases b <;> rfl
    | _ => rfl
  rw [busRead, h]
  rfl

/-- Writing CFG where it already holds the stored value: the factor stays, so no oversampler state is cleared. -/
theorem writeCfg_of_stored {v : Word} {s : State} (h : s.cfg = cfgStored s.params v) :
    writeCfg v s = if v.toNat % 4 = 0 then cfgAdjusted 0x018 v s else s := by
  simp [writeCfg, ← h]

theorem cfg_writeCfg (v : Word) (s : State) : (writeCfg v s).cfg = cfgStored s.params v := by
  unfold writeCfg
  dsimp only
  split <;> rfl

theorem writeCfg_writeCfg (v : Word) (s : State) : writeCfg v (writeCfg v s) = writeCfg v s := by
  obtain ⟨hp, -⟩ : SameHost s (writeCfg v s) := writeReg_sameHost v s .cfg
  rw [writeCfg_of_stored (hp ▸ cfg_writeCfg v s)]
  split
  next hv =>
    simp only [writeCfg, hv, if_true]
    exact cfgAdjusted_of_eq rfl
  next => rfl

/-- Legality depends on the parameters alone, so the second write stores what the first one stored. -/
theorem writePeakLvl_writePeakLvl (b : Bank) (off : Nat) (v : Word) (s : State) :
    writePeakLvl b off v (writePeakLvl b off v s) = writePeakLvl b off v s := by
  cases h : peakLvlLegal s.params.envMin v <;> simp [writePeakLvl, cfgAdjusted, h]

theorem writeEnv_writeEnv (b : Bank) (x : EnvReg) (v : Word) (s : State) :
    writeEnv b x v (writeEnv b x v s) = writeEnv b x v s := by
  cases x with
  | tAtt | tAccAtt | tPeak | tDec | tAccDec | tEnd => simp [writeEnv]
  | peakLvl => exact writePeakLvl_writePeakLvl ..
  | _ => rfl

theorem writeDynDepth_of_lt {v : Word} {s : State} (h : s.params.laMax.toNat < v.toNat) :
    writeDynDepth v s = cfgAdjusted 0x318 v { s with dyn := { s.dyn with depth := s.params.laMax } } :=
  if_neg h.not_ge

theorem writeDynDepth_writeDynDepth (v : Word) (s : State) :
    writeDynDepth v (writeDynDepth v s) = writeDynDepth v s := by
  rcases Nat.lt_or_ge s.params.laMax.toNat v.toNat with h | h
  · rw [writeDynDepth_of_lt h, writeDynDepth_of_lt]
    · exact cfgAdjusted_of_eq rfl
    · exact h
  · simp [writeDynDepth, h]

/-- Writing the same value twice leaves the state of writing it once. -/
theorem writeReg_writeReg (v : Word) (s : State) (r : Reg) : writeReg v (writeReg v s r) r = writeReg v s r := by
  cases r with
  | status => simp [writeReg, BitVec.and_assoc]
  | cfg => exact writeCfg_writeCfg v s
  | fsHost | dynTaMs | dynTrMs =>
    simp only [writeReg, writeFsHost, writeDynTaMs, writeDynTrMs]
    split
    · rfl
    · exact cfgAdjusted_of_eq rfl
  | dynDepth => exact writeDynDepth_writeDynDepth v s
  | ladIn c | ladFc c | ladRes c => exact State.chanWrite_chanWrite s c fun _ => rfl
  | env b x => exact writeEnv_writeEnv b x v s
  | _ => rfl

/-- A state in which the VCA bank is in the middle of an attack. -/
def State.midAttack : State :=
  { State.reset with vca := { State.reset.vca with mode := .attack, step := 1, target := 4 } }

theorem command_vca (s : State) : command 0x30000000#32 s = .next (tickEnv Config.tr .vca s) :=
  command_of_decode (i := .vca) (by decide) s

/-- Two ticks in the attack count two steps. -/
theorem tickEnv_midAttack :
    (tickEnv Config.tr .vca State.midAttack).vca.step = 2 ∧
    (tickEnv Config.tr .vca (tickEnv Config.tr .vca State.midAttack)).vca.step = 3 := by
  decide

theorem tickEnv_midAttack_ne :
    tickEnv Config.tr .vca (tickEnv Config.tr .vca State.midAttack) ≠ tickEnv Config.tr .vca State.midAttack := by
  obtain ⟨h2, h3⟩ := tickEnv_midAttack
  refine ne_of_apply_ne (fun t => t.vca.step) ?_
  rw [h2, h3]
  decide

/-- Settles O15: a second read or register write finds what the first one left, and a second VCA command counts on. -/
theorem idempotentAccesses : Obligations.IdempotentAccesses := by
  unfold Obligations.IdempotentAccesses
  refine ⟨fun s addr hr h4 => ?_, fun s addr v hr h4 hc => ?_, ?_⟩
  · refine ⟨_, step_read hr h4, ?_⟩
    rw [step_read (s := busRead addr s) hr h4, busRead_busRead]
  · obtain ⟨-, -, -, hrst, -⟩ := writeReg_sameHost v s (regAt (offsetOf addr))
    refine ⟨_, step_write hr h4 rfl hc v, ?_⟩
    rw [step_write (hrst.trans hr) h4 rfl hc, writeReg_writeReg]
  · have hstep (s : State) (hr : s.rstN = true) :
        step (s.withAccess (.write .b32 0x000 0x30000000#32)) = .next (tickEnv Config.tr .vca s) :=
      (step_writeCmd hr _).trans (command_vca s)
    exact ⟨State.midAttack, _, _, _, rfl, hstep _ rfl, hstep _ rfl, tickEnv_midAttack_ne⟩

end Sys2Proof.Machine
end

section
/-! PROOFS. The command encoding (R300 to R306): a word decodes to a command exactly when its four fields are that
command's. The round trips, the listed words, the six conditions of R305 and a write to CMD follow from that. -/

namespace Sys2Proof.Machine

/-! ### The fields of a word that decodes (R301, R304) -/

/-- The word of a command carries the command's fields. -/
theorem fields_encode : ∀ i : Instr, Laws.EncodeFields.Statement i
  | .nop => Laws.EncodeFields.nop
  | .reset => Laws.EncodeFields.reset
  | .clrst => Laws.EncodeFields.clrst
  | .tanh => Laws.EncodeFields.tanh
  | .ups c => Laws.EncodeFields.ups c
  | .lstep c i => Laws.EncodeFields.lstep c i
  | .dec c => Laws.EncodeFields.dec c
  | .filt c => Laws.EncodeFields.filt c
  | .vca => Laws.EncodeFields.vca
  | .vcf => Laws.EncodeFields.vcf
  | .bass => Laws.EncodeFields.bass
  | .dyn => Laws.EncodeFields.dyn

theorem decodePlain_of_fields {w : Word} (i : Instr) (hc : chOf w = 0) (hs : subOf w = 0) :
    decodePlain w i = .ok i := by
  simp [decodePlain, hc, hs]

theorem decodeChannel_of_fields {w : Word} (f : BitVec 4 → Instr) (hs : subOf w = 0) :
    decodeChannel w f = .ok (f (chOf w)) := by
  simp [decodeChannel, hs]

/-- The opcode map reads a command off its fields; the converse is `decodeOpc_fields`. -/
theorem decodeOpc_of_fields {w : Word} {i : Instr} (ho : opcOf w = i.opc) (hc : chOf w = i.ch) (hs : subOf w = i.sub) :
    decodeOpc w = .ok i := by
  rw [decodeOpc, ho]
  cases i with
  | lstep c k => rw [hc, hs]; rfl
  | ups c | dec c | filt c => exact hc ▸ decodeChannel_of_fields _ hs
  | _ => exact decodePlain_of_fields _ hc hs

theorem decode_eq_ok_iff (w : Word) (i : Instr) :
    decode w = .ok i ↔ rsvOf w = 0 ∧ opcOf w = i.opc ∧ chOf w = i.ch ∧ subOf w = i.sub := by
  constructor
  · intro h
    unfold decode at h
    split_ifs at h with hr
    exact ⟨not_not.1 hr, decodeOpc_fields h⟩
  · rintro ⟨hr, ho, hc, hs⟩
    rw [decode, if_neg (not_not.2 hr), decodeOpc_of_fields ho hc hs]

theorem decode_encode (i : Instr) : decode (encode i) = .ok i := by
  obtain ⟨ho, hc, hs, hr⟩ := fields_encode i
  exact (decode_eq_ok_iff _ _).2 ⟨hr, ho, hc, hs⟩

/-! ### The four byte lanes (R201, R301) -/

/-- The four lanes of a word make the word again. -/
theorem wordOfBytes_lanes (w : Word) :
    wordOfBytes (BitVec.ofNat 8 w.toNat) (BitVec.ofNat 8 (w.toNat / 2 ^ 8)) (BitVec.ofNat 8 (w.toNat / 2 ^ 16))
      (BitVec.ofNat 8 (w.toNat / 2 ^ 24)) = w := by
  apply BitVec.eq_of_toNat_eq
  simp only [wordOfBytes, BitVec.toNat_ofNat]
  omega

theorem decodeBytes_of_decode {b₀ b₁ b₂ b₃ : Byte} {i : Instr} (h : decode (wordOfBytes b₀ b₁ b₂ b₃) = .ok i)
    (rest : List Byte) : decodeBytes (b₀ :: b₁ :: b₂ :: b₃ :: rest) = .ok (i, rest) := by
  rw [decodeBytes, h]

theorem decodeBytes_encodeBytes (i : Instr) (rest : List Byte) :
    decodeBytes (encodeBytes i ++ rest) = .ok (i, rest) := by
  have h := decode_encode i
  rw [← wordOfBytes_lanes (encode i)] at h
  exact decodeBytes_of_decode h rest

theorem decodeTableWord_of_decode {w : Word} {i : Instr} (h : decode w = .ok i) :
    decodeTableWord 32 w.toNat = some i := by
  rw [← wordOfBytes_lanes w] at h
  have hb := decodeBytes_of_decode h []
  rw [decodeTableWord, Nat.mod_eq_of_lt w.isLt]
  simp only [hb]

/-- Settles O1: the word of a command carries the command's fields, and its four bytes make that word again. -/
theorem decodeInvertsEncode : Obligations.DecodeInvertsEncode := by
  unfold Obligations.DecodeInvertsEncode
  exact fun i rest => ⟨decode_encode i, decodeBytes_encodeBytes i rest, decodeTableWord_of_decode (decode_encode i)⟩

/-- Settles O2: a word that decodes is the word of its command, and that word decodes to it. -/
theorem decodedWordIsTheEncoding : Obligations.DecodedWordIsTheEncoding := by
  unfold Obligations.DecodedWordIsTheEncoding
  refine fun w i => ⟨encode_of_decode, ?_⟩
  rintro rfl
  exact decode_encode i

/-! ### The words R304 lists -/

theorem setWidth_shiftLeft (c : BitVec 4) (k : Nat) : c.setWidth 32 <<< k = BitVec.ofNat 32 (c.toNat * 2 ^ k) := by
  apply BitVec.eq_of_toNat_eq
  simp [Nat.shiftLeft_eq, -Nat.reducePow]

/-- The fields of a command word do not overlap, so the sum in `encode` is their disjunction. -/
theorem encode_eq_or {i : Instr} (o : Nat) (c k : BitVec 4) (ho : i.opc = o) (hc : i.ch = c) (hk : i.sub = k) :
    encode i = BitVec.ofNat 32 (o * 2 ^ 24) ||| (c.setWidth 32 <<< 20) ||| (k.setWidth 32 <<< 16) := by
  have hc' : c.toNat < 2 ^ 4 := c.isLt
  have hk' : k.toNat < 2 ^ 4 := k.isLt
  have h₁ : o * 2 ^ 24 ||| c.toNat * 2 ^ 20 = o * 2 ^ 24 + c.toNat * 2 ^ 20 := by
    rw [Nat.mul_comm o, Nat.two_pow_add_eq_or_of_lt (by omega)]
  have h₂ : o * 2 ^ 24 + c.toNat * 2 ^ 20 ||| k.toNat * 2 ^ 16 =
      o * 2 ^ 24 + c.toNat * 2 ^ 20 + k.toNat * 2 ^ 16 := by
    rw [show o * 2 ^ 24 + c.toNat * 2 ^ 20 = 2 ^ 20 * (o * 2 ^ 4 + c.toNat) by omega,
      Nat.two_pow_add_eq_or_of_lt (by omega)]
  rw [encode, ho, hc, hk, ← h₂, ← h₁, BitVec.ofNat_or, BitVec.ofNat_or, setWidth_shiftLeft, setWidth_shiftLeft]

/-- Settles O3: each listed word is the word of its command. -/
theorem commandWordsOfTheOpcodeMap : Obligations.CommandWordsOfTheOpcodeMap := by
  unfold Obligations.CommandWordsOfTheOpcodeMap
  have h (i : Instr) {w : Word} (hw : encode i = w) : decode w = .ok i := hw ▸ decode_encode i
  refine ⟨h .nop (by decide), h .reset (by decide), h .clrst (by decide), h .tanh (by decide), h .vca (by decide),
    h .vcf (by decide), h .bass (by decide), h .dyn (by decide), fun c i => ⟨?_, ?_, ?_, ?_⟩⟩
  · exact h (.ups c) ((encode_eq_or 0x20 c 0 rfl rfl rfl).trans (by simp))
  · exact h (.lstep c i) ((encode_eq_or 0x21 c i rfl rfl rfl).trans (by simp))
  · exact h (.dec c) ((encode_eq_or 0x22 c 0 rfl rfl rfl).trans (by simp))
  · exact h (.filt c) ((encode_eq_or 0x23 c 0 rfl rfl rfl).trans (by simp))

/-! ### Legal words (R305) -/

theorem field_opc (w : Word) : w.field 31 24 = opcOf w := by
  simp only [Word.field, opcOf]
  omega

theorem field_ch (w : Word) : w.field 23 20 = (chOf w).toNat := rfl

theorem field_sub (w : Word) : w.field 19 16 = (subOf w).toNat := rfl

theorem field_rsv (w : Word) : w.field 15 0 = rsvOf w := by
  simp [Word.field, rsvOf]

/-- On a word that decodes, R305 is what its command asks of P_NCH and N. -/
theorem legalWord_iff_wellFormed {w : Word} {i : Instr} (h : decode w = .ok i) (nch n : Nat) :
    LegalWord w nch n ↔ i.wellFormed nch n = true := by
  obtain ⟨hr, ho, hc, hs⟩ := (decode_eq_ok_iff w i).1 h
  rw [LegalWord, field_opc, field_ch, field_sub, field_rsv, hr, ho, hc, hs]
  cases i <;> simp [Instr.opc, Instr.ch, Instr.sub, Instr.wellFormed, allOpcodes, plainOpcodes, channelOpcodes]

theorem exists_instr_of_mem_plainOpcodes {o : Nat} (h : o ∈ plainOpcodes) :
    ∃ i : Instr, i.opc = o ∧ i.ch = 0 ∧ i.sub = 0 := by
  rw [show plainOpcodes = [Instr.nop, .reset, .clrst, .tanh, .vca, .vcf, .bass, .dyn].map Instr.opc from rfl] at h
  obtain ⟨i, hi, rfl⟩ := List.mem_map.1 h
  refine ⟨i, rfl, ?_⟩
  revert i
  decide

theorem exists_instr_of_mem_channelOpcodes {o : Nat} (h : o ∈ channelOpcodes) (c : BitVec 4) :
    ∃ i : Instr, i.opc = o ∧ i.ch = c ∧ i.sub = 0 := by
  simp only [channelOpcodes, List.mem_cons, List.not_mem_nil, or_false] at h
  rcases h with rfl | rfl | rfl
  · exact ⟨.ups c, rfl, rfl, rfl⟩
  · exact ⟨.dec c, rfl, rfl, rfl⟩
  · exact ⟨.filt c, rfl, rfl, rfl⟩

theorem plain_or_channel_or_lstep_of_mem_allOpcodes :
    ∀ o ∈ allOpcodes, o ∈ plainOpcodes ∨ o ∈ channelOpcodes ∨ o = 0x21 := by decide

/-- The first three conditions of R305, and SUB = 0 of the fourth, make a word decode. -/
theorem decode_of_legalWord {w : Word} {nch n : Nat} (h : LegalWord w nch n) : ∃ i, decode w = .ok i := by
  rw [LegalWord, field_opc, field_ch, field_sub, field_rsv] at h
  obtain ⟨hmem, hr, hplain, hchan, -, -⟩ := h
  have hz {x : BitVec 4} (hx : x.toNat = 0) : x = 0 := BitVec.eq_of_toNat_eq hx
  have hi : ∃ i : Instr, i.opc = opcOf w ∧ i.ch = chOf w ∧ i.sub = subOf w := by
    rcases plain_or_channel_or_lstep_of_mem_allOpcodes _ hmem with ho | ho | ho
    · obtain ⟨hc, hs⟩ := hplain ho
      rw [hz hc, hz hs]
      exact exists_instr_of_mem_plainOpcodes ho
    · obtain ⟨-, hs⟩ := hchan ho
      rw [hz hs]
      exact exists_instr_of_mem_channelOpcodes ho _
    · exact ⟨.lstep (chOf w) (subOf w), ho.symm, rfl, rfl⟩
  obtain ⟨i, ho, hc, hs⟩ := hi
  exact ⟨i, (decode_eq_ok_iff w i).2 ⟨hr, ho.symm, hc.symm, hs.symm⟩⟩

/-- A legal command is one that decodes and is well formed: the decoder and `Instr.wellFormed` share the six conditions. -/
theorem exists_legal_iff_legalWord (s : State) (w : Word) :
    (∃ i, decode w = .ok i ∧ s.legal i = true) ↔ LegalWord w s.nch s.factor := by
  constructor
  · rintro ⟨i, hd, hl⟩
    exact (legalWord_iff_wellFormed hd _ _).2 hl
  · intro h
    obtain ⟨i, hd⟩ := decode_of_legalWord h
    exact ⟨i, hd, (legalWord_iff_wellFormed hd _ _).1 h⟩

theorem factor_of_osfSelects {s : State} {n : Nat} {ku kd : List F32} (h : OsfSelects s n ku kd) : s.factor = n := by
  rcases h with ⟨hc, rfl, -⟩ | ⟨hc, rfl, -⟩ | ⟨hc, rfl, -⟩ <;> rw [State.factor, osfOf, hc] <;> rfl

/-- Settles O4: the first clause holds for the factor in force, which is the one the OSF code selects. -/
theorem legalWordsAreThoseOfTheRule : Obligations.LegalWordsAreThoseOfTheRule := by
  unfold Obligations.LegalWordsAreThoseOfTheRule
  refine fun s w => ⟨exists_legal_iff_legalWord s w, fun n ku kd h => ⟨factor_of_osfSelects h, ?_⟩⟩
  rw [← factor_of_osfSelects h]
  exact exists_legal_iff_legalWord s w

/-! ### A write to CMD (R300) -/

/-- CMD answers at every address whose low 12 bits are 0. -/
theorem step_writeCmd_of_offset {s : State} {addr : Nat} (hr : s.rstN = true) (ho : offsetOf addr = 0x000) (w : Word) :
    step (s.withAccess (.write .b32 addr w)) = command w s :=
  (serve_access_congr ho s .b32 w).2.trans (step_writeCmd hr w)

theorem command_of_not_legalWord {s : State} {w : Word} (h : ¬ LegalWord w s.nch s.factor) :
    command w s = .next (illegalWord w s) := by
  cases hd : decode w with
  | error e => rw [command, hd]
  | ok i =>
    have hl : s.legal i = false := Bool.eq_false_iff.2 fun hl => h ((legalWord_iff_wellFormed hd _ _).2 hl)
    rw [command_of_decode hd, exec_illegal i s hl, encode_of_decode hd]

theorem illegalWord_eq (w : Word) (s : State) :
    illegalWord w s = { s with status := s.status ||| 0x00000001#32, evtInfo := 0x00000001#32, evtData := w } := rfl

/-- Settles O5: a legal word runs the command whose word it is, and any other only records ILLCMD. -/
theorem cmdWriteRunsOrRaises : Obligations.CmdWriteRunsOrRaises := by
  unfold Obligations.CmdWriteRunsOrRaises
  intro s addr w hr ho
  rw [step_writeCmd_of_offset hr ho]
  refine ⟨fun h => ?_, fun h => ?_⟩
  · obtain ⟨i, hd⟩ := decode_of_legalWord h
    exact ⟨i, encode_of_decode hd, command_of_decode hd s⟩
  · rw [command_of_not_legalWord h, illegalWord_eq]

end Sys2Proof.Machine
end

section
/-! PROOFS. Negation on bit patterns: it inverts the sign bit, and it passes through products, quotients and conversions whose
result is no NaN (R13, R403(a)). -/

namespace Sys2Proof.Machine

/-! ### Exact data -/

theorem fpMul_fpNeg_left (u v : Fp) : fpMul (fpNeg u) v = fpNeg (fpMul u v) := by
  cases u with
  | nan => rfl
  | inf s =>
    cases v with
    | nan => rfl
    | inf t => simp [fpMul, fpNeg]
    | fin t n f => by_cases h : n = 0 <;> simp [fpMul, fpNeg, h]
  | fin s m e =>
    cases v with
    | nan => rfl
    | inf t => by_cases h : m = 0 <;> simp [fpMul, fpNeg, h]
    | fin t n f => simp [fpMul, fpNeg]

theorem fpMul_fpNeg_fpNeg (u v : Fp) : fpMul (fpNeg u) (fpNeg v) = fpMul u v := by
  cases u <;> cases v <;> simp [fpMul, fpNeg]

theorem fpDiv_fpNeg_left (bits : Nat) (u v : Fp) : fpDiv bits (fpNeg u) v = fpNeg (fpDiv bits u v) := by
  cases u with
  | nan => rfl
  | inf s => cases v <;> simp [fpDiv, fpNeg]
  | fin s m e =>
    cases v with
    | nan => rfl
    | inf t => simp [fpDiv, fpNeg]
    | fin t n f =>
      by_cases hn : n = 0
      · by_cases hm : m = 0 <;> simp [fpDiv, fpNeg, hn, hm]
      · simp [fpDiv, fpNeg, hn]

/-! ### Patterns of one format -/

namespace Fmt
variable {w : Nat}

/-- The pattern with its sign bit inverted: `f32Neg` and `f64Neg`. -/
def flip (x : BitVec w) : BitVec w := make w (!neg x) (mag x)

theorem mag_flip (f : Fmt w) (x : BitVec w) : mag (flip x) = mag x := f.mag_make _ (mag_lt x)

theorem neg_flip (f : Fmt w) (x : BitVec w) : neg (flip x) = !neg x := f.neg_make _ (mag_lt x)

theorem flip_make (f : Fmt w) (s : Bool) {g : Nat} (hg : g < 2 ^ (w - 1)) : flip (make w s g) = make w (!s) g := by
  rw [flip, f.neg_make s hg, f.mag_make s hg]

theorem unpack_flip (f : Fmt w) (x : BitVec w) : f.unpack (flip x) = fpNeg (f.unpack x) := by
  unfold unpack
  rw [f.mag_flip, f.neg_flip]
  split_ifs <;> rfl

/-- Rounding is symmetric; only the pattern a NaN takes may differ. -/
theorem pack_fpNeg (f : Fmt w) (n n' : BitVec w) {v : Fp} (hv : v ≠ .nan) : f.pack n (fpNeg v) = flip (f.pack n' v) := by
  cases v with
  | nan => contradiction
  | inf s => exact (f.flip_make s f.inf_lt).symm
  | fin s m e => exact (f.flip_make s ((roundMag_le ..).trans_lt f.inf_lt)).symm

end Fmt

/-! ### The operations of the model -/

theorem f32Neg_eq_xor (x : F32) : f32Neg x = x ^^^ 0x80000000#32 := fmt32.make_not_neg_mag x

theorem isNaN32_f32Neg (x : F32) : isNaN32 (f32Neg x) = isNaN32 x :=
  congrArg (fun g => decide (0x7F800000 < g)) (fmt32.mag_flip x)

theorem f64Abs_f64Neg (x : F64) : f64Abs (f64Neg x) = f64Abs x := congrArg (make64 false) (fmt64.mag_flip x)

theorem f32CopySignOne_f32Neg (x : F32) : f32CopySignOne (f32Neg x) = f32Neg (f32CopySignOne x) :=
  (congrArg (make32 · 0x3F800000) (fmt32.neg_flip x)).trans (fmt32.flip_make _ (by decide)).symm

theorem unpack64_f64Neg (x : F64) : unpack64 (f64Neg x) = fpNeg (unpack64 x) := fmt64.unpack_flip x

theorem pack64_fpNeg (n n' : F64) {v : Fp} (hv : v ≠ .nan) : pack64 n (fpNeg v) = f64Neg (pack64 n' v) :=
  pack64_eq ▸ fmt64.pack_fpNeg n n' hv

theorem pack64_eq_of_not_nan {n n' : F64} {v : Fp} (hv : v ≠ .nan) : pack64 n v = pack64 n' v := by
  cases v with
  | nan => contradiction
  | inf s => rfl
  | fin s m e => rfl

theorem ne_nan_of_pack64 {op : FpOp} {i j : Nat} {v : Fp} (h : isNaN64 (pack64 (nan64 op i j) v) = false) : v ≠ .nan :=
  mt (isNaN64_pack64 _ (isNaN64_nan64 ..) v).2 (ne_true_of_eq_false h)

theorem f64Mul_f64Neg_left {a b : F64} (h : isNaN64 (f64Mul a b) = false) :
    f64Mul (f64Neg a) b = f64Neg (f64Mul a b) := by
  rw [f64Mul, unpack64_f64Neg, fpMul_fpNeg_left]
  exact pack64_fpNeg _ _ (ne_nan_of_pack64 h)

theorem f64Mul_f64Neg_f64Neg {a b : F64} (h : isNaN64 (f64Mul a b) = false) :
    f64Mul (f64Neg a) (f64Neg b) = f64Mul a b := by
  rw [f64Mul, unpack64_f64Neg, unpack64_f64Neg, fpMul_fpNeg_fpNeg]
  exact pack64_eq_of_not_nan (ne_nan_of_pack64 h)

theorem f64Div_f64Neg_left {a b : F64} (h : isNaN64 (f64Div a b) = false) :
    f64Div (f64Neg a) b = f64Neg (f64Div a b) := by
  rw [f64Div, unpack64_f64Neg, fpDiv_fpNeg_left]
  exact pack64_fpNeg _ _ (ne_nan_of_pack64 h)

theorem widen_f32Neg {x : F32} (h : isNaN32 x = false) : widen (f32Neg x) = f64Neg (widen x) := by
  have hv : unpack32 x ≠ .nan := mt (unpack32_eq_nan x).1 (ne_true_of_eq_false h)
  rw [widen, show unpack32 (f32Neg x) = fpNeg (unpack32 x) from fmt32.unpack_flip x]
  exact pack64_fpNeg _ _ hv

theorem narrow32_f64Neg {x : F64} (h : isNaN64 x = false) : narrow32 (f64Neg x) = f32Neg (narrow32 x) := by
  have hv : unpack64 x ≠ .nan := mt (unpack64_eq_nan x).1 (ne_true_of_eq_false h)
  rw [narrow32, narrow32, unpack64_f64Neg, pack32_eq]
  exact fmt32.pack_fpNeg _ _ hv

end Sys2Proof.Machine
end

section
/-! PROOFS. Sizes of binary64 results: rounding keeps the bounds that are themselves binary64 values (R13(b)). -/

namespace Sys2Proof.Machine

theorem isNaN64_eq_false_of_finite {x : F64} (h : isFinite64 x = true) : isNaN64 x = false :=
  (fmt64.nan_eq_false x).2 ((fmt64.finite_iff x).1 h).le

/-! ### Comparisons and absolute values (R21) -/

theorem f64Lt_iff_val {a b : F64} (ha : isFinite64 a = true) (hb : isFinite64 b = true) :
    f64Lt a b = true ↔ val64 a < val64 b := by
  obtain ⟨-, -, hlt, -⟩ := comparisonsFollowTheRealOrder
  obtain ⟨-, hval, -⟩ := hlt a b
  exact hval ha hb

theorem f64Lt_inf_left (b : F64) : f64Lt binary64.inf b = false := by
  obtain ⟨-, -, hlt, -⟩ := comparisonsFollowTheRealOrder
  obtain ⟨-, -, -, hinf, -⟩ := hlt b b
  exact hinf

theorem val64_f64Abs {d : F64} (hd : isFinite64 d = true) :
    isFinite64 (f64Abs d) = true ∧ val64 (f64Abs d) = |val64 d| := by
  have hm := (fmt64.finite_iff d).1 hd
  obtain ⟨hf, hv, -⟩ := fmt64.finite_val_msb_make false hm
  refine ⟨hf, Eq.trans hv ?_⟩
  rw [show val64 d = _ from fmt64.val_eq hm, abs_sgn_mul, abs_of_nonneg (magVal_nonneg _)]
  exact one_mul _

/-! ### Rounding and order -/

/-- A binary64 value that is at most `r` is at most what `r` rounds to. -/
theorem NearestEven64.le_val_of_le {r : ℚ} {y z : F64} (h : NearestEven64 r y) (hz : isFinite64 z = true)
    (hzr : val64 z ≤ r) : val64 z ≤ val64 y := by
  obtain ⟨-, hnear⟩ := h
  by_contra hlt
  have hle := (hnear z hz).1
  rw [abs_of_nonpos (by linarith), abs_of_nonpos (by linarith)] at hle
  linarith

/-- A binary64 value that is at least `r` is at least what `r` rounds to. -/
theorem NearestEven64.val_le_of_le {r : ℚ} {y z : F64} (h : NearestEven64 r y) (hz : isFinite64 z = true)
    (hzr : r ≤ val64 z) : val64 y ≤ val64 z := by
  obtain ⟨-, hnear⟩ := h
  by_contra hlt
  have hle := (hnear z hz).1
  rw [abs_of_nonneg (by linarith), abs_of_nonneg (by linarith)] at hle
  linarith

theorem two_pow_lt_overflowBound64 {k : Nat} (hk : k < 1024) : (2 : ℚ) ^ k < overflowBound64 :=
  calc (2 : ℚ) ^ k ≤ 2 ^ (52 + 971) := pow_le_pow_right₀ one_le_two (Nat.le_of_lt_succ hk)
    _ = 2 ^ 52 * 2 ^ 971 := pow_add ..
    _ < overflowBound64 := mul_lt_mul_of_pos_right (by norm_num) (by positivity)

theorem two_pow_lt_overflowBound32 {k : Nat} (hk : k < 128) : (2 : ℚ) ^ k < overflowBound32 :=
  calc (2 : ℚ) ^ k ≤ 2 ^ (23 + 104) := pow_le_pow_right₀ one_le_two (Nat.le_of_lt_succ hk)
    _ = 2 ^ 23 * 2 ^ 104 := pow_add ..
    _ < overflowBound32 := mul_lt_mul_of_pos_right (by norm_num) (by positivity)

theorem exists_val64_two_pow (s : Bool) {k : Nat} (hk : k < 1024) :
    ∃ z, isFinite64 z = true ∧ val64 z = sgn s * 2 ^ k := by
  obtain ⟨g, hg⟩ := exists_magVal_eq (F := fmt64.frac) (E := fmt64.emin) 1 (k + 1074) Nat.one_le_two_pow
  have hv : magVal fmt64.frac fmt64.emin g = 2 ^ k := by
    rw [hg, Nat.cast_one, one_mul, ← zpow_natCast, show fmt64.emin + ((k + 1074 : Nat) : Int) = k from ?_]
    show (-1074 : Int) + ((k + 1074 : Nat) : Int) = k
    omega
  have hlt : g < fmt64.inf := by
    rw [← magVal_strictMono.lt_iff_lt (f := magVal fmt64.frac fmt64.emin), hv, magVal_inf64, ← zpow_natCast]
    exact zpow_lt_zpow_right₀ one_lt_two (by omega)
  obtain ⟨hf, hval, -⟩ := fmt64.finite_val_msb_make s hlt
  exact ⟨_, hf, hval.trans (by rw [hv])⟩

/-- What rounds within a power of two stays within it. -/
theorem Rounds64.abs_val_le {r : ℚ} {y : F64} {k : Nat} (h : Rounds64 r y) (hk : k < 1024) (hr : |r| ≤ 2 ^ k) :
    isFinite64 y = true ∧ |val64 y| ≤ 2 ^ k := by
  have hn := h.1 (hr.trans_lt (two_pow_lt_overflowBound64 hk))
  obtain ⟨hlo, hhi⟩ := abs_le.1 hr
  obtain ⟨z, hz, hzv⟩ := exists_val64_two_pow false hk
  obtain ⟨z', hz', hzv'⟩ := exists_val64_two_pow true hk
  simp only [sgn, Bool.false_eq_true, if_false, if_true, one_mul, neg_one_mul] at hzv hzv'
  exact ⟨hn.1, abs_le.2 ⟨hzv' ▸ hn.le_val_of_le hz' (hzv'.trans_le hlo), hzv ▸ hn.val_le_of_le hz (hhi.trans_eq hzv.symm)⟩⟩

/-! ### Nonnegative values below a power of two -/

/-- A finite value from 0 to `2^k`. -/
def Within (k : Nat) (a : F64) : Prop := isFinite64 a = true ∧ 0 ≤ val64 a ∧ val64 a ≤ 2 ^ k

theorem val64_zero : val64 0#64 = 0 := by
  rw [val64, show unpack64 0#64 = .fin false 0 (-1074) by decide, Fp.val_fin, Nat.cast_zero, zero_mul, mul_zero]

theorem Rounds64.within {r : ℚ} {y : F64} {k : Nat} (h : Rounds64 r y) (hk : k < 1024) (h0 : 0 ≤ r) (hr : r ≤ 2 ^ k) :
    Within k y := by
  have habs : |r| ≤ 2 ^ k := (abs_of_nonneg h0).trans_le hr
  obtain ⟨hf, hle⟩ := h.abs_val_le hk habs
  have hn := h.1 (habs.trans_lt (two_pow_lt_overflowBound64 hk))
  exact ⟨hf, val64_zero ▸ hn.le_val_of_le (z := 0#64) (by decide) (val64_zero.trans_le h0), (le_abs_self _).trans hle⟩

theorem f64Add_rounds {a b : F64} (ha : isFinite64 a = true) (hb : isFinite64 b = true) :
    Rounds64 (val64 a + val64 b) (f64Add a b) := by
  obtain ⟨-, h64, -⟩ := addSubMulRoundToNearest
  exact (h64 a b ha hb).1

theorem f64Mul_rounds {a b : F64} (ha : isFinite64 a = true) (hb : isFinite64 b = true) :
    Rounds64 (val64 a * val64 b) (f64Mul a b) := by
  obtain ⟨-, h64, -⟩ := addSubMulRoundToNearest
  obtain ⟨-, -, hmul⟩ := h64 a b ha hb
  exact hmul

theorem f64Div_rounds {a b : F64} (ha : isFinite64 a = true) (hb : isFinite64 b = true) (hne : val64 b ≠ 0) :
    Rounds64 (val64 a / val64 b) (f64Div a b) := by
  obtain ⟨-, h64, -⟩ := divAndNarrowRoundToNearest
  exact h64 a b ha hb hne

theorem f64OfNat_exact {n : Nat} (hn : n ≤ 2 ^ 53) : isFinite64 (f64OfNat n) = true ∧ val64 (f64OfNat n) = n := by
  obtain ⟨-, -, h64, -⟩ := wideningIsExact
  obtain ⟨hf, hv, -⟩ := h64 n hn
  exact ⟨hf, hv⟩

theorem f64Mul_abs_le {a b : F64} {j k : Nat} (ha : isFinite64 a = true) (hb : isFinite64 b = true)
    (hav : |val64 a| ≤ 2 ^ j) (hbv : |val64 b| ≤ 2 ^ k) (hjk : j + k < 1024) :
    isFinite64 (f64Mul a b) = true ∧ |val64 (f64Mul a b)| ≤ 2 ^ (j + k) := by
  refine (f64Mul_rounds ha hb).abs_val_le hjk ?_
  rw [abs_mul, pow_add]
  exact mul_le_mul hav hbv (abs_nonneg _) (by positivity)

theorem Within.f64Mul {a b : F64} {j k : Nat} (ha : Within j a) (hb : Within k b) (hjk : j + k < 1024) :
    Within (j + k) (f64Mul a b) := by
  obtain ⟨haf, ha0, hav⟩ := ha
  obtain ⟨hbf, hb0, hbv⟩ := hb
  refine (f64Mul_rounds haf hbf).within hjk (mul_nonneg ha0 hb0) ?_
  rw [pow_add]
  exact mul_le_mul hav hbv hb0 (by positivity)

/-- Adding an integer of at most 18 bits: the sum is at least the integer. -/
theorem Within.f64Add_ofNat {n k : Nat} {a : F64} (ha : Within k a) (hn : n ≤ 2 ^ 18) (hk : 18 ≤ k) (hk' : k + 1 < 1024) :
    Within (k + 1) (f64Add (f64OfNat n) a) ∧ n ≤ val64 (f64Add (f64OfNat n) a) := by
  obtain ⟨haf, ha0, hav⟩ := ha
  obtain ⟨hnf, hnv⟩ := f64OfNat_exact (hn.trans (Nat.pow_le_pow_right (by decide) (by decide : 18 ≤ 53)))
  have hr := hnv ▸ f64Add_rounds hnf haf
  have hn0 : (0 : ℚ) ≤ n := n.cast_nonneg
  have hle : (n : ℚ) + val64 a ≤ 2 ^ (k + 1) := by
    have h1 : (n : ℚ) ≤ 2 ^ k := by exact_mod_cast hn.trans (Nat.pow_le_pow_right (by decide) hk)
    rw [pow_succ]
    linarith
  have habs : |(n : ℚ) + val64 a| < overflowBound64 := by
    rw [abs_of_nonneg (by linarith)]
    exact hle.trans_lt (two_pow_lt_overflowBound64 hk')
  refine ⟨hr.within hk' (by linarith) hle, ?_⟩
  have h := (hr.1 habs).le_val_of_le hnf (by linarith)
  rwa [hnv] at h

end Sys2Proof.Machine
end

section
/-! PROOFS. TANH (spec/40_nonlinear.md R401 to R410): the command, odd symmetry, and finite results. -/

namespace Sys2Proof.Machine

/-! ### The rational form (R401) -/

theorem f64OfNat_28 : f64OfNat 28 = 0x403C000000000000#64 := by decide
theorem f64OfNat_378 : f64OfNat 378 = 0x4077A00000000000#64 := by decide
theorem f64OfNat_3150 : f64OfNat 3150 = 0x40A89C0000000000#64 := by decide
theorem f64OfNat_17325 : f64OfNat 17325 = 0x40D0EB4000000000#64 := by decide
theorem f64OfNat_62370 : f64OfNat 62370 = 0x40EE744000000000#64 := by decide
theorem f64OfNat_135135 : f64OfNat 135135 = 0x41007EF800000000#64 := by decide

theorem tanhNum_eq (d x2 : F64) :
    tanhNum d x2 = f64Mul d (f64Add (f64OfNat 135135)
      (f64Mul x2 (f64Add (f64OfNat 17325) (f64Mul x2 (f64Add (f64OfNat 378) x2))))) := by
  rw [f64OfNat_135135, f64OfNat_17325, f64OfNat_378]
  rfl

theorem tanhDen_eq (x2 : F64) :
    tanhDen x2 = f64Add (f64OfNat 135135)
      (f64Mul x2 (f64Add (f64OfNat 62370) (f64Mul x2 (f64Add (f64OfNat 3150) (f64Mul x2 (f64OfNat 28)))))) := by
  rw [f64OfNat_135135, f64OfNat_62370, f64OfNat_3150, f64OfNat_28]
  rfl

theorem tanhNum_abs_le {d x2 : F64} {j k : Nat} (hd : isFinite64 d = true) (hdv : |val64 d| ≤ 2 ^ j)
    (hx : Within k x2) (hk : 18 ≤ k) (hjk : j + (3 * k + 3) < 1024) :
    isFinite64 (tanhNum d x2) = true ∧ |val64 (tanhNum d x2)| ≤ 2 ^ (j + (3 * k + 3)) := by
  have h1 := (hx.f64Add_ofNat (n := 378) (by decide) hk (by omega)).1
  have h2 := ((hx.f64Mul h1 (by omega)).f64Add_ofNat (n := 17325) (by decide) (by omega) (by omega)).1
  have h3 := ((hx.f64Mul h2 (by omega)).f64Add_ofNat (n := 135135) (by decide) (by omega) (by omega)).1
  rw [show k + (k + (k + 1) + 1) + 1 = 3 * k + 3 by ring] at h3
  obtain ⟨hf, h0, hv⟩ := h3
  rw [tanhNum_eq]
  exact f64Mul_abs_le hd hf hdv ((abs_of_nonneg h0).trans_le hv) hjk

/-- The denominator is finite and at least its constant term (R403(b)). -/
theorem tanhDen_ge {x2 : F64} {k : Nat} (hx : Within k x2) (hk : 18 ≤ k) (hk' : 3 * k + 21 < 1024) :
    isFinite64 (tanhDen x2) = true ∧ 135135 ≤ val64 (tanhDen x2) := by
  have h28 : Within 18 (f64OfNat 28) := by
    obtain ⟨hf, hv⟩ := f64OfNat_exact (n := 28) (by decide)
    rw [Within, hv]
    exact ⟨hf, by norm_num, by norm_num⟩
  have h1 := ((hx.f64Mul h28 (by omega)).f64Add_ofNat (n := 3150) (by decide) (by omega) (by omega)).1
  have h2 := ((hx.f64Mul h1 (by omega)).f64Add_ofNat (n := 62370) (by decide) (by omega) (by omega)).1
  obtain ⟨⟨hf, -⟩, hge⟩ := (hx.f64Mul h2 (by omega)).f64Add_ofNat (n := 135135) (by decide) (by omega) (by omega)
  rw [tanhDen_eq]
  exact ⟨hf, by exact_mod_cast hge⟩

/-- The square that R401 calls x². -/
theorem within_f64Mul_self {d : F64} {j : Nat} (hd : isFinite64 d = true) (hdv : |val64 d| ≤ 2 ^ j) (hj : j + j < 1024) :
    Within (j + j) (f64Mul d d) := by
  refine (f64Mul_rounds hd hd).within hj (mul_self_nonneg _) ?_
  rw [← abs_mul_abs_self, pow_add]
  exact mul_le_mul hdv hdv (abs_nonneg _) (by positivity)

/-- No result of the rational form overflows on the range of binary32: the numerator and the quotient are finite. From `j = 9`
on the coefficients, of at most 18 bits, are within the bound on the square. -/
theorem tanhQuotient_finite {d : F64} {j : Nat} (hd : isFinite64 d = true) (hdv : |val64 d| ≤ 2 ^ j) (hj : 9 ≤ j)
    (hj' : j ≤ 128) :
    isFinite64 (tanhNum d (f64Mul d d)) = true ∧
    isFinite64 (f64Div (tanhNum d (f64Mul d d)) (tanhDen (f64Mul d d))) = true ∧
    |val64 (f64Div (tanhNum d (f64Mul d d)) (tanhDen (f64Mul d d)))| ≤ 2 ^ (7 * j + 3) := by
  have hx := within_f64Mul_self hd hdv (by omega)
  obtain ⟨hnf, hnv⟩ := tanhNum_abs_le hd hdv hx (by omega) (by omega)
  obtain ⟨hdf, hge⟩ := tanhDen_ge hx (by omega) (by omega)
  rw [show j + (3 * (j + j) + 3) = 7 * j + 3 by ring] at hnv
  refine ⟨hnf, (f64Div_rounds hnf hdf (by linarith)).abs_val_le (by omega) ?_⟩
  rw [abs_div, abs_of_nonneg (by linarith : 0 ≤ val64 (tanhDen (f64Mul d d)))]
  exact (div_le_self (abs_nonneg _) (by linarith)).trans hnv

theorem tanhRational_f64Neg {d : F64} (hd : isFinite64 d = true) (hdv : |val64 d| ≤ 2 ^ 128) :
    tanhRational (f64Neg d) = f32Neg (tanhRational d) := by
  obtain ⟨hnf, hqf, -⟩ := tanhQuotient_finite hd hdv (by decide) le_rfl
  have hx2 : f64Mul (f64Neg d) (f64Neg d) = f64Mul d d :=
    f64Mul_f64Neg_f64Neg (isNaN64_eq_false_of_finite (within_f64Mul_self hd hdv (by decide)).1)
  have hnum : tanhNum (f64Neg d) (f64Mul d d) = f64Neg (tanhNum d (f64Mul d d)) :=
    f64Mul_f64Neg_left (isNaN64_eq_false_of_finite hnf)
  have hq := isNaN64_eq_false_of_finite hqf
  simp only [tanhRational, hx2, hnum]
  rw [f64Div_f64Neg_left hq, narrow32_f64Neg hq]

/-! ### Operands of TANH -/

/-- The absolute value of an infinity is below no bound. -/
theorem f64Lt_abs_widen_inf {x : F32} (h : Fmt.mag x = fmt32.inf) (b : F64) : f64Lt (f64Abs (widen x)) b = false := by
  have habs : f64Abs (widen x) = binary64.inf := by
    rw [widen_inf h]
    exact congrArg (make64 false) (fmt64.mag_make _ fmt64.inf_lt)
  rw [habs]
  exact f64Lt_inf_left b

/-- Only a finite operand takes the rational form. -/
theorem mag_lt_of_f64Lt {x : F32} {b : F64} (hx : isNaN32 x = false) (h : f64Lt (f64Abs (widen x)) b = true) :
    Fmt.mag x < fmt32.inf := by
  refine lt_of_le_of_ne ((fmt32.nan_eq_false x).1 hx) fun he => ?_
  rw [f64Lt_abs_widen_inf he] at h
  cases h

theorem widen_abs_le {x : F32} (hx : Fmt.mag x < fmt32.inf) :
    isFinite64 (widen x) = true ∧ |val64 (widen x)| ≤ 2 ^ 128 := by
  obtain ⟨hwiden, -⟩ := wideningIsExact
  obtain ⟨hfin, -⟩ := hwiden x
  obtain ⟨hf, hv⟩ := hfin ((fmt32.finite_iff x).2 hx)
  refine ⟨hf, ?_⟩
  rw [hv, show val32 x = _ from fmt32.val_eq hx, abs_sgn_mul, abs_of_nonneg (magVal_nonneg _)]
  exact (magVal_strictMono hx).le.trans_eq magVal_inf32

theorem tanhOf_nan (p : Params) {x : F32} (hx : isNaN32 x = true) : tanhOf p x = canonicalNaN := if_pos hx

theorem tanhOf_below {p : Params} {x : F32} (hx : isNaN32 x = false) (h : f64Lt (f64Abs (widen x)) p.tanhBound = true) :
    tanhOf p x = tanhRational (widen x) := by
  rw [tanhOf, if_neg (ne_true_of_eq_false hx), if_pos h]

theorem tanhOf_clamp {p : Params} {x : F32} (hx : isNaN32 x = false)
    (h : f64Lt (f64Abs (widen x)) p.tanhBound = false) : tanhOf p x = f32CopySignOne x := by
  rw [tanhOf, if_neg (ne_true_of_eq_false hx), if_neg (ne_true_of_eq_false h)]

theorem tanhOf_inf (p : Params) {x : F32} (h : Fmt.mag x = fmt32.inf) : tanhOf p x = f32CopySignOne x :=
  tanhOf_clamp ((fmt32.nan_eq_false x).2 h.le) (f64Lt_abs_widen_inf h _)

theorem f32CopySignOne_eq (x : F32) : f32CopySignOne x = if x.getLsbD 31 then 0xBF800000#32 else 0x3F800000#32 := by
  have hn : neg32 x = x.getLsbD 31 := (Fmt.neg_eq_msb x).trans (BitVec.msb_eq_getLsbD_last x)
  rw [f32CopySignOne, hn]
  cases x.getLsbD 31 <;> rfl

/-! ### Finite results (R403(b)) -/

theorem isFinite32_f32CopySignOne (x : F32) : isFinite32 (f32CopySignOne x) = true := by
  rw [f32CopySignOne, isFinite32, mag32_make32 _ _ (by decide)]
  rfl

theorem isFinite32_tanhRational {d : F64} (hd : isFinite64 d = true) (hdv : |val64 d| ≤ 2 ^ 9) :
    isFinite32 (tanhRational d) = true := by
  obtain ⟨-, hqf, hqv⟩ := tanhQuotient_finite hd hdv le_rfl (by decide)
  exact ((narrow32_rounds hqf).1 (hqv.trans_lt (two_pow_lt_overflowBound32 (by decide)))).1

/-- The spec's bound 4.97. -/
theorem val64_tanhBound_le : val64 0x4013E147AE147AE1#64 ≤ 2 ^ 9 := by
  rw [val64, show unpack64 0x4013E147AE147AE1#64 = .fin false 5595722537007841 (-50) by decide, Fp.val_fin]
  norm_num [sgn]

theorem isFinite32_tanhOf {p : Params} {x : F32} (hp : p.tanhBound = 0x4013E147AE147AE1#64) (hx : isNaN32 x = false) :
    isFinite32 (tanhOf p x) = true := by
  cases hlt : f64Lt (f64Abs (widen x)) p.tanhBound with
  | true =>
    obtain ⟨hd, -⟩ := widen_abs_le (mag_lt_of_f64Lt hx hlt)
    obtain ⟨haf, hav⟩ := val64_f64Abs hd
    rw [tanhOf_below hx hlt]
    rw [hp] at hlt
    have hval := (f64Lt_iff_val haf (by decide)).1 hlt
    exact isFinite32_tanhRational hd (hav ▸ hval.le.trans val64_tanhBound_le)
  | false => exact tanhOf_clamp hx hlt ▸ isFinite32_f32CopySignOne x

/-! ### The obligations -/

theorem illegalFormsRaise (s : State) (opc : Nat) : IllegalFormsRaise s opc :=
  fun w _ hl hr => (cmdWriteRunsOrRaises s 0x000 w hr rfl).2 hl

/-- Settles O28: each clause is one branch of `tanhOf`, and an infinity is in the clamp branch. -/
theorem tanhCommand : Obligations.TanhCommand := by
  unfold Obligations.TanhCommand
  intro s
  refine ⟨tanhOf s.params s.tanhIn, rfl, tanhOf_nan _, fun hx hlt => ?_, fun hx hlt => ?_, fun hx => ?_, fun hx => ?_,
    illegalFormsRaise s _⟩
  · rw [tanhOf_below (Bool.eq_false_iff.2 hx) hlt, tanhRational, tanhNum_eq, tanhDen_eq]
  · rw [tanhOf_clamp (Bool.eq_false_iff.2 hx) hlt, f32CopySignOne_eq]
  · rw [hx, tanhOf_inf _ rfl]
    rfl
  · rw [hx, tanhOf_inf _ rfl]
    rfl

/-- Settles O29: negation passes through the rational form, whose results on the range of binary32 are no NaNs, and through the
clamp. -/
theorem tanhIsOdd : Obligations.TanhIsOdd := by
  unfold Obligations.TanhIsOdd
  intro p x hx
  have hx : isNaN32 x = false := Bool.eq_false_iff.2 hx
  have hx' : isNaN32 (f32Neg x) = false := (isNaN32_f32Neg x).trans hx
  have habs : f64Abs (widen (f32Neg x)) = f64Abs (widen x) := by rw [widen_f32Neg hx, f64Abs_f64Neg]
  rw [← f32Neg_eq_xor, ← f32Neg_eq_xor]
  cases hlt : f64Lt (f64Abs (widen x)) p.tanhBound with
  | true =>
    obtain ⟨hd, hdv⟩ := widen_abs_le (mag_lt_of_f64Lt hx hlt)
    rw [tanhOf_below hx hlt, tanhOf_below hx' (habs ▸ hlt), widen_f32Neg hx, tanhRational_f64Neg hd hdv]
  | false => rw [tanhOf_clamp hx hlt, tanhOf_clamp hx' (habs ▸ hlt), f32CopySignOne_f32Neg]

/-- Settles O30: below 4.97 the quotient is far from the overflow bound, and from there on TANH is ±1. -/
theorem tanhStaysFinite : Obligations.TanhStaysFinite := by
  unfold Obligations.TanhStaysFinite
  exact fun p x hp => ⟨fun hx => isFinite32_tanhOf hp (Bool.eq_false_iff.2 hx),
    fun hx => isFinite32_tanhOf hp (Bool.eq_false_iff.2 hx)⟩

end Sys2Proof.Machine
end

section
/-! PROOFS. A write to CFG: the stored value, the clear of the oversampler state when the factor changes, and the frame (R114,
R460). -/

namespace Sys2Proof.Machine

/-! ### The stored value (R114) -/

/-- A word whose OSF code is 0 has the same bits 7:0 with and without that code. -/
theorem and_255_of_osf_zero {v : Word} (h : v.toNat % 4 = 0) : v &&& 0x000000FF#32 = v &&& 0x000000FC#32 := by
  have h3 : v &&& 0x00000003#32 = 0#32 := by
    apply BitVec.eq_of_toNat_eq
    rw [BitVec.toNat_and]
    exact (Nat.and_two_pow_sub_one_eq_mod _ 2).trans h
  rw [show 0x000000FF#32 = 0x000000FC#32 ||| 0x00000003#32 from rfl, BitVec.and_or_distrib_left, h3, BitVec.or_zero]

theorem cfgStored_eq (p : Params) (v : Word) :
    cfgStored p v = if v.toNat % 4 = 0 then (v &&& 0x000000FC#32) ||| p.osfDefault.setWidth 32
      else v &&& 0x000000FF#32 := by
  unfold cfgStored
  split
  next h => rw [and_255_of_osf_zero h]
  next => rfl

/-! ### Channel banks under the clear (R460) -/

/-- The oversampled samples are the elements of OSBUF. -/
theorem Channel.os_eq_getElem (ch : Channel) {i : Nat} (h : i < 8) : ch.os i = ch.osbuf[i] := by
  simp [Channel.os, h]

theorem os_clearOversampler (p : Params) (ch : Channel) {i : Nat} (h : i < 8) :
    (clearOversampler p ch).os i = F32.zero := by
  rw [Channel.os_eq_getElem _ h]
  exact Vector.getElem_replicate h

theorem State.chan_map {s : State} {c : Nat} (h : c < s.nch) (f : Channel → Channel) :
    State.chan { s with chans := s.chans.map f } c = f (s.chan c) := by
  simp [State.chan, h]

theorem State.chanRead_map (s : State) (c : Nat) {f : Channel → Channel} {g : Channel → F32} (h : ∀ ch, g (f ch) = g ch) :
    State.chanRead { s with chans := s.chans.map f } c g = s.chanRead c g := by
  simp only [State.chanRead, List.getElem?_map]
  cases s.chans[c]? with
  | none => rfl
  | some ch => exact h ch

/-- The clear changes no register but the elements of OSBUF: UH and DH have none. -/
theorem readReg_map_clearOversampler (s : State) (p : Params) {r : Reg} (h : ∀ c i, r ≠ .osbuf c i) :
    readReg { s with chans := s.chans.map (clearOversampler p) } r = readReg s r := by
  cases r with
  | osbuf c i => exact absurd rfl (h c i)
  | ladIn c | ladFc c | ladRes c | ladOut c | lstate c k => exact State.chanRead_map s c fun _ => rfl
  | _ => rfl

/-! ### The write (R114, R460) -/

/-- The state with the OSF code of `w` in force: the oversampler state is kept when the code is, and cleared otherwise. -/
def withOsfOf (w : Word) (s : State) : State :=
  if w.toNat % 4 = s.cfg.toNat % 4 then s else { s with chans := s.chans.map (clearOversampler s.params) }

theorem withOsfOf_same {w : Word} {s : State} (h : w.toNat % 4 = s.cfg.toNat % 4) : withOsfOf w s = s := if_pos h

theorem withOsfOf_changed {w : Word} {s : State} (h : w.toNat % 4 ≠ s.cfg.toNat % 4) :
    withOsfOf w s = { s with chans := s.chans.map (clearOversampler s.params) } := if_neg h

/-- The clear changes OSBUF alone of what is in registers. -/
theorem readReg_withOsfOf (w : Word) (s : State) {r : Reg} (h : ∀ c i, r ≠ .osbuf c i) :
    readReg (withOsfOf w s) r = readReg s r := by
  unfold withOsfOf
  split
  · rfl
  · exact readReg_map_clearOversampler s s.params h

theorem withOsfOf_dyn (w : Word) (s : State) : (withOsfOf w s).dyn = s.dyn := by
  unfold withOsfOf
  split <;> rfl

theorem readReg_withCfg (s : State) (w : Word) {r : Reg} (h : r ≠ .cfg) : readReg { s with cfg := w } r = readReg s r := by
  cases r with
  | cfg => exact absurd rfl h
  | _ => rfl

/-- The write rule, with the event apart from the values. -/
theorem writeCfg_eq (v : Word) (s : State) :
    writeCfg v s = if v.toNat % 4 = 0
      then cfgAdjusted 0x018 v { withOsfOf (cfgStored s.params v) s with cfg := cfgStored s.params v }
      else { withOsfOf (cfgStored s.params v) s with cfg := cfgStored s.params v } := rfl

/-- Outside the event registers the write is the clear and the new value of CFG. -/
theorem writeCfg_stores (v : Word) (s : State) :
    (writeCfg v s).cfg = cfgStored s.params v ∧ (writeCfg v s).chans = (withOsfOf (cfgStored s.params v) s).chans ∧
      (∀ c, (writeCfg v s).chan c = (withOsfOf (cfgStored s.params v) s).chan c) ∧
      (writeCfg v s).dyn = (withOsfOf (cfgStored s.params v) s).dyn := by
  rw [writeCfg_eq]
  split <;> exact ⟨rfl, rfl, fun _ => rfl, rfl⟩

theorem readReg_writeCfg (v : Word) (s : State) {r : Reg} (hc : r ≠ .cfg) (ho : ∀ c i, r ≠ .osbuf c i)
    (he : isEventReg r = false) : readReg (writeCfg v s) r = readReg s r := by
  have h := (readReg_withCfg _ (cfgStored s.params v) hc).trans (readReg_withOsfOf (cfgStored s.params v) s ho)
  rw [writeCfg_eq]
  split
  · exact (readReg_raiseEvent _ _ _ _ _ he).trans h
  · exact h

/-- CFGADJ is recorded exactly for a written OSF code of 0. -/
theorem writeCfg_event (v : Word) (s : State) :
    if v.toNat % 4 = 0 then Recorded s (writeCfg v s) .cfgadj 0 0x018 v else NoEvent s (writeCfg v s) := by
  have h {r : Reg} (hr : ∀ c i, r ≠ .osbuf c i) := readReg_withOsfOf (cfgStored s.params v) s hr
  rw [writeCfg_eq]
  split
  · exact ⟨congrArg (· ||| statusBit .cfgadj 0) (h (r := .status) nofun), rfl, rfl⟩
  · exact ⟨h (r := .status) nofun, h (r := .evtInfo) nofun, h (r := .evtData) nofun⟩

/-- Settles O11: the write is the clear, the new value and the event, each with its own frame. -/
theorem cfgWriteAndFactorChange : Obligations.CfgWriteAndFactorChange := by
  unfold Obligations.CfgWriteAndFactorChange
  intro s v hr
  obtain ⟨hcfg, hchans, hchan, hdyn⟩ := writeCfg_stores v s
  refine ⟨writeCfg v s, step_write (r := .cfg) hr rfl rfl nofun v, hcfg.trans (cfgStored_eq ..), ?_, ?_,
    fun r => readReg_writeCfg v s, writeCfg_event v s, writeReg_sameHost v s .cfg, ?_⟩
  · rw [hcfg]
    intro hne c hc
    rw [hchan, withOsfOf_changed hne, State.chan_map hc]
    exact ⟨rfl, rfl, fun i => os_clearOversampler s.params (s.chan c)⟩
  · rw [hcfg, hchans]
    intro heq
    rw [withOsfOf_same heq]
  · rw [hdyn, withOsfOf_dyn]

end Sys2Proof.Machine
end

section
/-! PROOFS. UPS and DEC (spec/41_oversampling.md R452, R453; spec/42_ladder.md R530): histories place by place, the samples of
OSBUF, and the frame of a command that replaces one channel bank. -/

namespace Sys2Proof.Machine

/-! ### Replacing one channel bank -/

theorem State.chanRead_setChan_self {s : State} {c : Nat} {ch : Channel} {g : Channel → F32} (h : g ch = g (s.chan c)) :
    (s.setChan c ch).chanRead c g = s.chanRead c g := by
  rcases Nat.lt_or_ge c s.nch with hc | hc
  · have hc' : c < (s.setChan c ch).nch := by rwa [State.nch_setChan]
    rw [State.chanRead_of_lt hc', State.chanRead_of_lt hc, State.chan_setChan_self s c ch hc, h]
  · have hc' : (s.setChan c ch).nch ≤ c := by rwa [State.nch_setChan]
    rw [State.chanRead_of_le hc', State.chanRead_of_le hc]

theorem State.chanRead_setChan_other (s : State) {c c' : Nat} (ch : Channel) (g : Channel → F32) (h : c' ≠ c) :
    (s.setChan c ch).chanRead c' g = s.chanRead c' g := by
  simp only [State.chanRead, State.setChan_chans, List.getElem?_set_ne h.symm]

/-- A register whose value the new bank has in common with the old one. -/
theorem State.chanRead_setChan {s : State} {c c' : Nat} {ch : Channel} {g : Channel → F32}
    (h : c' = c → g ch = g (s.chan c)) : (s.setChan c ch).chanRead c' g = s.chanRead c' g := by
  by_cases hc : c' = c
  · subst hc
    exact State.chanRead_setChan_self (h rfl)
  · exact State.chanRead_setChan_other s ch g hc

/-- The frame of a channel command: it writes no RW register, and the registers of its results are those named. -/
theorem readReg_setChan {s : State} {c : Nat} {ch : Channel} {r : Reg} (hin : ch.ladIn = (s.chan c).ladIn)
    (hfc : ch.ladFc = (s.chan c).ladFc) (hres : ch.ladRes = (s.chan c).ladRes)
    (hout : r = .ladOut c → ch.ladOut = (s.chan c).ladOut)
    (hst : ∀ k, r = .lstate c k → ch.lstate.get k = (s.chan c).lstate.get k)
    (hos : ∀ i, r = .osbuf c i → ch.os i = (s.chan c).os i) : readReg (s.setChan c ch) r = readReg s r := by
  cases r with
  | ladIn c' => exact State.chanRead_setChan fun _ => hin
  | ladFc c' => exact State.chanRead_setChan fun _ => hfc
  | ladRes c' => exact State.chanRead_setChan fun _ => hres
  | ladOut c' => exact State.chanRead_setChan fun h => hout (h ▸ rfl)
  | lstate c' k => exact State.chanRead_setChan fun h => hst k (h ▸ rfl)
  | osbuf c' i => exact State.chanRead_setChan fun h => hos i (h ▸ rfl)
  | _ => rfl

theorem sameHost_setChan (s : State) (c : Nat) (ch : Channel) : SameHost s (s.setChan c ch) :=
  ⟨rfl, rfl, rfl, rfl, State.nch_setChan s c ch⟩

/-! ### Legality and kernels (R305, R451) -/

theorem legal_ups_iff (s : State) (c : BitVec 4) : s.legal (.ups c) = true ↔ c.toNat < s.nch := decide_eq_true_iff

theorem legal_dec_iff (s : State) (c : BitVec 4) : s.legal (.dec c) = true ↔ c.toNat < s.nch := decide_eq_true_iff

theorem kernels_of_osfSelects {s : State} {n : Nat} {ku kd : List F32} (h : OsfSelects s n ku kd) :
    kup s.params (osfOf s.cfg) = ku ∧ kdn s.params (osfOf s.cfg) = kd := by
  rcases h with ⟨hc, -, rfl, rfl⟩ | ⟨hc, -, rfl, rfl⟩ | ⟨hc, -, rfl, rfl⟩ <;>
  · rw [osfOf, hc]
    exact ⟨rfl, rfl⟩

/-! ### UPS (R452) -/

/-- One shift, place by place. -/
theorem shiftIn_getD {n : Nat} (x : F32) {h : List F32} (h1 : 1 ≤ n) (h2 : n ≤ h.length) (k : Nat) (d : F32) :
    (shiftIn n x h).getD k d = if k = 0 then x else if k < n then h.getD (k - 1) d else h.getD k d := by
  simp only [List.getD_eq_getElem?_getD, shiftIn_getElem? n x h h1 h2]
  split_ifs <;> rfl

/-- OSBUF after an upsampling: the polyphase sums below the factor, the old samples from there on. -/
theorem os_upsample (p : Params) (o : Osf) (ch : Channel) {i : Nat} (h : i < 8) :
    (upsample p o ch).os i = if i < o.factor then upsampleTap p o (upsample p o ch).uh i else ch.os i := by
  rw [Channel.os_eq_getElem _ h, Channel.os_eq_getElem _ h]
  exact Vector.getElem_ofFn h

/-- Settles O31: UPS puts `upsample` of its channel back, whose other registers are the old ones. -/
theorem upsCommand : Obligations.UpsCommand := by
  unfold Obligations.UpsCommand
  intro s c hl hq hu
  have hc : (s.setChan c.toNat (upsample s.params (osfOf s.cfg) (s.chan c.toNat))).chan c.toNat =
      upsample s.params (osfOf s.cfg) (s.chan c.toNat) := State.chan_setChan_self _ _ _ ((legal_ups_iff s c).1 hl)
  refine ⟨_, exec_ups s c hl, fun j hj => ?_, ?_, fun i hi => ?_,
    fun n ku kd h => ⟨factor_of_osfSelects h, (kernels_of_osfSelects h).1⟩, ?_,
    fun c' hc' => State.chan_setChan_other _ _ _ _ hc', fun r hr => ?_, sameHost_setChan .., rfl, illegalFormsRaise s _⟩
  · rw [hc, upsample, shiftIn_getD _ hq hu.ge, if_pos hj]
  · rw [hc, upsample, shiftIn_length _ _ _ hq hu.ge, hu]
  · rw [hc]
    exact os_upsample _ _ _ hi
  · rw [hc]
    rfl
  · refine readReg_setChan rfl rfl rfl (fun _ => rfl) (fun _ _ => rfl) fun i h => ?_
    subst h
    simp [writtenBy] at hr

/-! ### DEC (R453, R530) -/

/-- `m` shifts of `n` places, place by place: the last value in front, and below `n` every old value `m` places up. -/
theorem foldl_shiftIn_getD {n m : Nat} (x : Nat → F32) {h : List F32} (hm : m ≤ n) (hn : n ≤ h.length) (k : Nat)
    (d : F32) : ((List.range m).foldl (fun dh i => shiftIn n (x i) dh) h).getD k d =
      if n ≤ k then h.getD k d else if k < m then x (m - 1 - k) else h.getD (k - m) d := by
  induction m generalizing k with
  | zero => simp
  | succ m ih =>
    have h1 : 1 ≤ n := by omega
    have hlen := foldl_shiftIn_length n x (List.range m) h h1 hn
    rw [List.range_succ, List.foldl_append, List.foldl_cons, List.foldl_nil, shiftIn_getD _ h1 (by omega)]
    cases k with
    | zero => simp [show ¬ n ≤ 0 by omega]
    | succ k =>
      rw [if_neg (Nat.succ_ne_zero k), Nat.add_sub_cancel, ih (by omega), ih (by omega),
        show m + 1 - 1 - (k + 1) = m - 1 - k by omega, show k + 1 - (m + 1) = k - m by omega]
      rcases Nat.lt_or_ge (k + 1) n with hk | hk
      · simp only [hk, hk.not_ge, show ¬ n ≤ k by omega, if_true, if_false, Nat.add_lt_add_iff_right]
      · simp only [hk, hk.not_gt, if_true, if_false]

/-- The new DH: the samples of OSBUF in front, the newest first, and no place from N·P_Q on moved. -/
theorem decimHistory_getD {p : Params} (o : Osf) {ch : Channel} (hq : 1 ≤ p.q) (h : ch.dh.length = 8 * p.q) (k : Nat) :
    (decimHistory p o ch).getD k F32.zero =
      if o.factor * p.q ≤ k then ch.dh.getD k F32.zero
      else if k < o.factor then ch.os (o.factor - 1 - k) else ch.dh.getD (k - o.factor) F32.zero := by
  have ho : o.factor ≤ 8 := by cases o <;> decide
  exact foldl_shiftIn_getD ch.os (Nat.le_mul_of_pos_right _ hq) (h ▸ Nat.mul_le_mul_right _ ho) k _

theorem decimate_of_finite {p : Params} {o : Osf} {ch : Channel}
    (h : isFinite32 (decimTap p o (decimHistory p o ch)) = true) :
    decimate p o ch = ⟨{ ch with dh := decimHistory p o ch, ladOut := decimTap p o (decimHistory p o ch) }, none⟩ :=
  if_pos h

theorem decimate_of_not_finite {p : Params} {o : Osf} {ch : Channel}
    (h : isFinite32 (decimTap p o (decimHistory p o ch)) = false) :
    decimate p o ch = ⟨clearProcessing p ch, some (decimTap p o (decimHistory p o ch))⟩ :=
  if_neg (ne_true_of_eq_false h)

/-- The frame of a decimation. -/
theorem readReg_finishDecim {s : State} {c : Nat} {d : Decimated} {r : Reg} (he : isEventReg r = false)
    (h : readReg (s.setChan c d.ch) r = readReg s r) : readReg (finishDecim c d s) r = readReg s r := by
  rcases finishDecim_spec c d s with ⟨-, e⟩ | ⟨v, -, e⟩ <;> rw [e]
  · exact h
  · exact (readReg_raiseEvent _ _ _ _ _ he).trans h

theorem sameHost_finishDecim (s : State) (c : Nat) (d : Decimated) : SameHost s (finishDecim c d s) := by
  rcases finishDecim_spec c d s with ⟨-, e⟩ | ⟨v, -, e⟩ <;> rw [e] <;> exact sameHost_setChan s c d.ch

theorem finishDecim_dyn (s : State) (c : Nat) (d : Decimated) : (finishDecim c d s).dyn = s.dyn := by
  rcases finishDecim_spec c d s with ⟨-, e⟩ | ⟨v, -, e⟩ <;> rw [e] <;> rfl

/-- DEC leaves LAD_IN, LAD_FC and LAD_RES. -/
theorem decimate_inputs (p : Params) (o : Osf) (ch : Channel) :
    (decimate p o ch).ch.ladIn = ch.ladIn ∧ (decimate p o ch).ch.ladFc = ch.ladFc ∧
      (decimate p o ch).ch.ladRes = ch.ladRes := by
  rcases decimate_spec p o ch with ⟨-, e⟩ | ⟨-, e⟩ <;> rw [e] <;> exact ⟨rfl, rfl, rfl⟩

/-- Settles O32: DEC puts `decimate` of its channel back, whose two outcomes are those of the finite-check. -/
theorem decCommand : Obligations.DecCommand := by
  unfold Obligations.DecCommand
  intro s c hl hq hd
  have hc := chan_finishDecim_self ((legal_dec_iff s c).1 hl) (decimate s.params (osfOf s.cfg) (s.chan c.toNat))
  refine ⟨_, _, _, exec_dec s c hl, decimHistory_length hq (osfOf s.cfg) hd, fun k _ => decimHistory_getD _ hq hd k, rfl,
    fun n ku kd h => ⟨factor_of_osfSelects h, (kernels_of_osfSelects h).2⟩, fun hf => ?_, fun hf => ?_,
    fun c' hc' => chan_finishDecim_other hc' _, fun r hr he => readReg_finishDecim he ?_, sameHost_finishDecim ..,
    congrArg DynUnit.queue (finishDecim_dyn ..), illegalFormsRaise s _⟩
  · have h := decimate_of_finite hf
    rw [hc, h]
    exact ⟨rfl, rfl, rfl, rfl⟩
  · have h := decimate_of_not_finite hf
    rw [hc, h]
    exact ⟨rfl, rfl, rfl, rfl⟩
  · obtain ⟨hin, hfc, hres⟩ := decimate_inputs s.params (osfOf s.cfg) (s.chan c.toNat)
    refine readReg_setChan hin hfc hres (fun h => ?_) (fun k h => ?_) fun i h => ?_ <;>
    · subst h
      simp [writtenBy] at hr

end Sys2Proof.Machine
end

section
/-! PROOFS. The DC round trip at factor 2 (R451, R462): with the test kernels every operation of UPS and DEC has an exact result,
which rounding gives back. -/

namespace Sys2Proof.Machine

/-! ### Exact results (R13(a)) -/

theorem sgn_inj {s t : Bool} : sgn s = sgn t ↔ s = t := by
  cases s <;> cases t <;> norm_num [sgn]

namespace Fmt
variable {w : Nat}

theorem abs_val (f : Fmt w) {x : BitVec w} (h : f.ieee.finite x = true) :
    |f.ieee.val x| = magVal f.frac f.emin (mag x) := by
  rw [f.val_eq ((f.finite_iff x).1 h), abs_sgn_mul, abs_of_nonneg (magVal_nonneg _)]

/-- A finite value other than 0 has one pattern. -/
theorem eq_of_val_eq (f : Fmt w) {x y : BitVec w} (hx : f.ieee.finite x = true) (hy : f.ieee.finite y = true)
    (h : f.ieee.val x = f.ieee.val y) (h0 : f.ieee.val y ≠ 0) : x = y := by
  have hm : mag x = mag y :=
    magVal_strictMono.injective (((f.abs_val hx).symm.trans (congrArg abs h)).trans (f.abs_val hy))
  have hs : neg x = neg y := sgn_inj.1 <| by
    rw [f.val_eq ((f.finite_iff x).1 hx), f.val_eq ((f.finite_iff y).1 hy), hm] at h
    rw [f.val_eq ((f.finite_iff y).1 hy)] at h0
    exact mul_right_cancel₀ (right_ne_zero_of_mul h0) h
  rw [← f.make_neg_mag x, ← f.make_neg_mag y, hm, hs]

theorem abs_val_lt_bound (f : Fmt w) {x : BitVec w} (h : f.ieee.finite x = true) : |f.ieee.val x| < f.bound := by
  rw [f.abs_val h]
  exact (magVal_strictMono.monotone (Nat.le_sub_one_of_lt ((f.finite_iff x).1 h))).trans_lt (magMid_between _).1

/-- A result that is a finite value other than 0 rounds to its pattern. -/
theorem Rounds.eq_of_val {f : Fmt w} {r : ℚ} {y z : BitVec w} (h : f.Rounds r y) (hz : f.ieee.finite z = true)
    (hr : r = f.ieee.val z) (h0 : f.ieee.val z ≠ 0) : y = z := by
  subst hr
  obtain ⟨hnear, -⟩ := h
  obtain ⟨hy, hle⟩ := hnear (f.abs_val_lt_bound hz)
  have h := (hle z hz).1
  rw [sub_self, abs_zero, abs_nonpos_iff, sub_eq_zero] at h
  exact f.eq_of_val_eq hy hz h h0

/-- A value above the least normal binade has a half in the format. -/
theorem exists_half (f : Fmt w) {x : BitVec w} (hx : f.ieee.finite x = true) (h : 2 ^ f.frac + 2 ^ f.frac ≤ mag x) :
    ∃ z, f.ieee.finite z = true ∧ 2 * f.ieee.val z = f.ieee.val x := by
  have hlt := (f.finite_iff x).1 hx
  obtain ⟨g, hg⟩ := Nat.exists_eq_add_of_le' (show 2 ^ f.frac ≤ mag x by omega)
  obtain ⟨k, s, rfl, hs, hk⟩ := exists_binade f.frac g
  have hs' : 2 ^ f.frac ≤ s := by
    rcases hk with rfl | hk
    · omega
    · exact hk
  obtain ⟨hf, hv, -⟩ := f.finite_val_msb_make (neg x) (g := k * 2 ^ f.frac + s) (by omega)
  refine ⟨_, hf, ?_⟩
  rw [hv, f.val_eq hlt, hg, magVal_binade hs.le hk,
    show k * 2 ^ f.frac + s + 2 ^ f.frac = (k + 1) * 2 ^ f.frac + s by ring, magVal_binade hs.le (.inr hs'),
    show f.emin + ((k + 1 : Nat) : Int) = f.emin + k + 1 by push_cast; ring, zpow_add_one₀ two_ne_zero]
  ring

end Fmt

theorem f32Add_eq_of_val {a b z : F32} (ha : isFinite32 a = true) (hb : isFinite32 b = true) (hz : isFinite32 z = true)
    (h : val32 a + val32 b = val32 z) (h0 : val32 z ≠ 0) : f32Add a b = z := by
  obtain ⟨h32, -⟩ := addSubMulRoundToNearest
  exact ((rounds32_iff ..).1 (h32 a b ha hb).1).eq_of_val hz h h0

theorem f32Mul_eq_of_val {a b z : F32} (ha : isFinite32 a = true) (hb : isFinite32 b = true) (hz : isFinite32 z = true)
    (h : val32 a * val32 b = val32 z) (h0 : val32 z ≠ 0) : f32Mul a b = z := by
  obtain ⟨h32, -⟩ := addSubMulRoundToNearest
  obtain ⟨-, -, hmul⟩ := h32 a b ha hb
  exact ((rounds32_iff ..).1 hmul).eq_of_val hz h h0

theorem val32_zero : val32 F32.zero = 0 := by
  rw [val32, show unpack32 F32.zero = .fin false 0 (-149) by decide, Fp.val_fin, Nat.cast_zero, zero_mul, mul_zero]

theorem val32_one : val32 F32.one = 1 := by
  rw [val32, show unpack32 F32.one = .fin false 8388608 (-23) by decide, Fp.val_fin]
  norm_num [sgn]

theorem val32_half : val32 0x3F000000#32 = 1 / 2 := by
  rw [val32, show unpack32 0x3F000000#32 = .fin false 8388608 (-24) by decide, Fp.val_fin]
  norm_num [sgn]

theorem zero_f32Add {x : F32} (hx : isFinite32 x = true) (h0 : val32 x ≠ 0) : f32Add F32.zero x = x :=
  f32Add_eq_of_val rfl hx hx (by rw [val32_zero, zero_add]) h0

theorem one_f32Mul {x : F32} (hx : isFinite32 x = true) (h0 : val32 x ≠ 0) : f32Mul F32.one x = x :=
  f32Mul_eq_of_val rfl hx hx (by rw [val32_one, one_mul]) h0

/-- Two halves of a value whose half is a normal number make the value again (R462). -/
theorem sum_of_halves {x : F32} (hx : isFinite32 x = true) (hn : (2 : ℚ) ^ (-125 : Int) ≤ |val32 x|) :
    f32Add (f32Add F32.zero (f32Mul 0x3F000000#32 x)) (f32Mul 0x3F000000#32 x) = x := by
  have hx0 : val32 x ≠ 0 := abs_pos.1 (hn.trans_lt' (by positivity))
  have hmag : 2 ^ fmt32.frac + 2 ^ fmt32.frac ≤ Fmt.mag x := by
    rw [← magVal_strictMono.le_iff_le (f := magVal fmt32.frac fmt32.emin), ← fmt32.abs_val hx]
    refine Eq.trans_le ?_ hn
    rw [show 2 ^ fmt32.frac + 2 ^ fmt32.frac = 1 * 2 ^ fmt32.frac + 2 ^ fmt32.frac by rw [one_mul],
      magVal_binade (Nat.pow_le_pow_right (by decide) (by omega)) (.inr le_rfl)]
    norm_num [fmt32]
  obtain ⟨z, hz, hzx⟩ := fmt32.exists_half hx hmag
  have hzx : 2 * val32 z = val32 x := hzx
  have hz0 : val32 z ≠ 0 := right_ne_zero_of_mul (hzx.trans_ne hx0)
  have hmul : f32Mul 0x3F000000#32 x = z := f32Mul_eq_of_val rfl hx hz (by rw [val32_half]; linarith) hz0
  rw [hmul, zero_f32Add hz hz0]
  exact f32Add_eq_of_val hz hz hx (by linarith) hx0

/-! ### UPS and DEC with the test kernels at factor 2 (R451) -/

theorem osfOf_of_factor_two {s : State} (h : s.factor = 2) : osfOf s.cfg = .x2 := by
  unfold State.factor at h
  cases ho : osfOf s.cfg with
  | x2 => rfl
  | x4 | x8 => simp [ho, Osf.factor] at h

/-- Zero-stuffing with taps of 1: both samples are the input. -/
theorem os_upsample_testKernel {p : Params} {ch : Channel} (hq : p.q = 1) (hk : p.kup2 = [F32.one, F32.one])
    (hx : isFinite32 ch.ladIn = true) (h0 : val32 ch.ladIn ≠ 0) {i : Nat} (hi : i < 2) :
    (upsample p .x2 ch).os i = ch.ladIn := by
  have ht : [F32.one, F32.one].getD i F32.zero = F32.one := by
    revert i
    decide
  rw [os_upsample _ _ _ (by omega), Osf.factor, if_pos hi, upsampleTap, sumTaps, hq, List.range_one, List.foldl_cons,
    List.foldl_nil, kup, hk, Nat.zero_mul, Nat.zero_add, ht]
  exact (congrArg (f32Add F32.zero) (one_f32Mul hx h0)).trans (zero_f32Add hx h0)

/-- Taps of 1/2 on two equal samples whose half is a normal number. -/
theorem decimTap_testKernel {p : Params} {ch : Channel} {x : F32} (hq : p.q = 1)
    (hk : p.kdn2 = [0x3F000000#32, 0x3F000000#32]) (hd : ch.dh.length = 8) (hos : ∀ i, i < 2 → ch.os i = x)
    (hx : isFinite32 x = true) (hn : (2 : ℚ) ^ (-125 : Int) ≤ |val32 x|) :
    decimTap p .x2 (decimHistory p .x2 ch) = x := by
  have hh (k : Nat) (hlt : k < 2) : (decimHistory p .x2 ch).getD k F32.zero = x := by
    rw [decimHistory_getD _ hq.ge (by rw [hd, hq]), hq, Osf.factor, if_neg (by omega), if_pos hlt, hos _ (by omega)]
  rw [decimTap, sumTaps, hq, Osf.factor, Nat.mul_one, show List.range 2 = [0, 1] from rfl, List.foldl_cons, List.foldl_cons,
    List.foldl_nil, hh 0 (by decide), hh 1 (by decide), kdn, hk]
  exact sum_of_halves hx hn

/-- Settles O33: UPS makes two samples equal to LAD_IN, and DEC adds their halves. -/
theorem dcRoundTripAtFactorTwo : Obligations.DcRoundTripAtFactorTwo := by
  unfold Obligations.DcRoundTripAtFactorTwo
  intro s c hc hf hq hku hkd _ hd hx hn
  have ho := osfOf_of_factor_two hf
  have hx0 : val32 (s.chan c.toNat).ladIn ≠ 0 := abs_pos.1 (hn.trans_lt' (by positivity))
  generalize hu : s.setChan c.toNat (upsample s.params .x2 (s.chan c.toNat)) = u
  have hups : exec (.ups c) s = .next u := by rw [exec_ups s c ((legal_ups_iff s c).2 hc), ho, hu]
  have hcu : c.toNat < u.nch := by rwa [← hu, State.nch_setChan]
  have hch : u.chan c.toNat = upsample s.params .x2 (s.chan c.toNat) := by
    rw [← hu, State.chan_setChan_self _ _ _ hc]
  have hdec : exec (.dec c) u = .next (finishDecim c.toNat (decimate s.params .x2 (u.chan c.toNat)) u) := by
    rw [exec_dec u c ((legal_dec_iff u c).2 hcu), ← hu, State.setChan_params, State.setChan_cfg, ho]
  have htap : decimTap s.params .x2 (decimHistory s.params .x2 (u.chan c.toNat)) = (s.chan c.toNat).ladIn :=
    decimTap_testKernel hq hkd (hch ▸ hd) (fun i hi => hch ▸ os_upsample_testKernel hq hku hx hx0 hi) hx hn
  have hfin := decimate_of_finite (htap ▸ hx)
  refine ⟨finishDecim c.toNat (decimate s.params .x2 (u.chan c.toNat)) u, ?_, ?_, ?_⟩
  · simp only [runCommands, hups, hdec]
  · rw [chan_finishDecim_self hcu, hfin, htap]
  · rw [hfin, ← hu]
    exact ⟨rfl, rfl, rfl⟩

end Sys2Proof.Machine
end

section
/-! PROOFS. LSTEP (spec/42_ladder.md R502, R503, R504, R510): the coefficients, one iteration on its channel bank, and the
command. -/

namespace Sys2Proof.Machine

/-! ### Coefficients (R502, R503, R504) -/

theorem f64OfNat_2 : f64OfNat 2 = two64 := by decide

theorem f32OfNat_2 : f32OfNat 2 = two32 := by decide

theorem gresOf_fixed {k : LadderCtx} (h : cfgTres k.cfg = false) : gresOf k = some (narrow32 k.p.gresFixed) :=
  if_neg (ne_true_of_eq_false h)

theorem gresOf_quartic {k : LadderCtx} (h : cfgTres k.cfg = true) :
    gresOf k = k.p.gres.map fun q => gresQuartic q (angularCutoff k) := if_pos h

/-- The coefficients, once Gres is known. -/
theorem coefOf_eq_some_iff {k : LadderCtx} {co : Coefs} :
    coefOf k = some co ↔ ∃ gres, gresOf k = some gres ∧ co =
      { g := gCoef k.p (angularCutoff k)
        gA := if cfgP1oct k.cfg then gCoef k.p (f64Mul two64 (angularCutoff k)) else gCoef k.p (angularCutoff k)
        gres := gres } := by
  rw [coefOf, Option.map_eq_some_iff]
  exact exists_congr fun _ => and_congr_right fun _ => eq_comm

/-- The coefficients can be formed at every cutoff. -/
theorem exists_coefOf {s : State} (h : s.gresReady = true) (fc : F32) : ∃ co, coefOf (s.ladderCtx fc) = some co :=
  Option.isSome_iff_exists.1 ((coefOf_isSome s fc).trans h)

/-! ### One iteration on a channel bank (R510) -/

theorem Osf.factor_le (o : Osf) : o.factor ≤ 8 := by cases o <;> decide

theorem os_ladderIterate_self (p : Params) (co : Coefs) (ch : Channel) {i : Nat} (h : i < 8) :
    (ladderIterate p co i ch).os i = f32Div (ladderIterate p co i ch).lstate.yd p.inScale := by
  rw [Channel.os_eq_getElem _ h]
  exact Vector.getElem_setIfInBounds_self h

theorem os_ladderIterate_other (p : Params) (co : Coefs) (ch : Channel) {i j : Nat} (h : j ≠ i) :
    (ladderIterate p co i ch).os j = ch.os j := by
  rcases Nat.lt_or_ge j 8 with hj | hj
  · rw [Channel.os_eq_getElem _ hj, Channel.os_eq_getElem _ hj]
    exact Vector.getElem_setIfInBounds_ne hj h.symm
  · simp [Channel.os, hj]

/-! ### The command -/

theorem legal_lstep_iff (s : State) (c i : BitVec 4) :
    s.legal (.lstep c i) = true ↔ c.toNat < s.nch ∧ i.toNat < s.factor := by
  simp [State.legal, Instr.wellFormed]

/-- Settles O34: LSTEP puts `ladderIterate` of its channel back, with the coefficients of its own cutoff. -/
theorem lstepCommand : Obligations.LstepCommand := by
  unfold Obligations.LstepCommand
  intro s c i hl hg
  obtain ⟨hc, hi⟩ := (legal_lstep_iff s c i).1 hl
  have hi8 : i.toNat < 8 := hi.trans_le (Osf.factor_le _)
  obtain ⟨_, hco⟩ := exists_coefOf hg (s.chan c.toNat).ladFc
  obtain ⟨gres, hgres, rfl⟩ := coefOf_eq_some_iff.1 hco
  have hself ch : (s.setChan c.toNat ch).chan c.toNat = ch := State.chan_setChan_self s c.toNat ch hc
  rw [f64OfNat_2, f32OfNat_2]
  refine ⟨_, gres, exec_lstep s c i hl hco, fun n ku kd h => factor_of_osfSelects h, fun ht => ?_, fun ht => ?_, ?_,
    fun j _ hj => ?_, ?_, ?_, fun c' hc' => State.chan_setChan_other _ _ _ _ hc', fun r hr => ?_, sameHost_setChan .., rfl,
    illegalFormsRaise s _⟩
  · exact Option.some.inj (hgres.symm.trans (gresOf_fixed ht))
  · obtain ⟨q, hq, hv⟩ := Option.map_eq_some_iff.1 (hgres.symm.trans (gresOf_quartic ht)).symm
    exact ⟨q, hq, hv.symm⟩
  · rw [hself, os_ladderIterate_self _ _ _ hi8]
    exact ⟨rfl, rfl⟩
  · rw [hself, os_ladderIterate_other _ _ _ hj]
  · rw [hself]
    rfl
  · rw [hself]
    rfl
  · refine readReg_setChan rfl rfl rfl (fun _ => rfl) (fun k h => ?_) fun j h => ?_
    · subst h
      simp [writtenBy] at hr
    · subst h
      refine os_ladderIterate_other _ _ _ fun hj => ?_
      simp [writtenBy, hj] at hr

end Sys2Proof.Machine
end

section
/-! PROOFS. FILT (spec/42_ladder.md R520, R521, R530): it is UPS, the LSTEPs and DEC run one after the other, as commands and as
bus accesses, and its frame. -/

namespace Sys2Proof.Machine

/-! ### The frame of the iterations (R510, R520) -/

theorem upsample_ladFc (p : Params) (o : Osf) (ch : Channel) : (upsample p o ch).ladFc = ch.ladFc := rfl

/-- The iterations change the ladder state and OSBUF alone. -/
theorem ladderSteps_frame {k : LadderCtx} {n : Nat} {ch ch' : Channel} (h : ladderSteps k n ch = some ch') :
    ch' = { ch with lstate := ch'.lstate, osbuf := ch'.osbuf } := by
  induction n generalizing ch' with
  | zero =>
    cases h
    rfl
  | succ n ih =>
    obtain ⟨ch₁, h₁, h₂⟩ := Option.bind_eq_some_iff.1 h
    obtain ⟨co, -, rfl⟩ := Option.map_eq_some_iff.1 h₂
    rw [ih h₁]
    rfl

theorem ladderFrame_eq (s : State) (fc : F32) (ch : Channel) :
    ladderFrame (s.ladderCtx fc) ch = (ladderSteps (s.ladderCtx fc) s.factor (upsample s.params (osfOf s.cfg) ch)).map
      (decimate s.params (osfOf s.cfg)) := rfl

/-- A ladder frame leaves LAD_IN, LAD_FC and LAD_RES. -/
theorem ladderFrame_inputs {k : LadderCtx} {ch : Channel} {d : Decimated} (h : ladderFrame k ch = some d) :
    d.ch.ladIn = ch.ladIn ∧ d.ch.ladFc = ch.ladFc ∧ d.ch.ladRes = ch.ladRes := by
  obtain ⟨ch', hs, rfl⟩ := Option.map_eq_some_iff.1 h
  obtain ⟨hin, hfc, hres⟩ := decimate_inputs k.p (osfOf k.cfg) ch'
  rw [hin, hfc, hres, ladderSteps_frame hs]
  exact ⟨rfl, rfl, rfl⟩

/-! ### The commands, refusals included -/

theorem legal_filt_iff (s : State) (c : BitVec 4) : s.legal (.filt c) = true ↔ c.toNat < s.nch := decide_eq_true_iff

theorem exec_lstep_eq {s : State} {c i : BitVec 4} (hl : s.legal (.lstep c i) = true) :
    exec (.lstep c i) s = (ladderStep (s.ladderCtx (s.chan c.toNat).ladFc) i.toNat (s.chan c.toNat)).elim
      (.refused .gresNotSupplied) fun ch => .next (s.setChan c.toNat ch) := by
  rw [exec, execLstep, if_pos hl]
  cases ladderStep (s.ladderCtx (s.chan c.toNat).ladFc) i.toNat (s.chan c.toNat) <;> rfl

theorem exec_filt_eq {s : State} {c : BitVec 4} (hl : s.legal (.filt c) = true) :
    exec (.filt c) s = (ladderFrame (s.ladderCtx (s.chan c.toNat).ladFc) (s.chan c.toNat)).elim
      (.refused .gresNotSupplied) fun d => .next (finishDecim c.toNat d s) :=
  exec_onChannel ⟨0, .inr (.inr (.inr rfl))⟩ hl

theorem State.setChan_chan {s : State} {c : Nat} (h : c < s.nch) : s.setChan c (s.chan c) = s := by
  simp [State.setChan, State.chan, h]

@[simp] theorem State.ladderCtx_setChan (s : State) (c : Nat) (ch : Channel) (fc : F32) :
    (s.setChan c ch).ladderCtx fc = s.ladderCtx fc := rfl

theorem finishDecim_setChan (s : State) (c : Nat) (ch : Channel) (d : Decimated) :
    finishDecim c d (s.setChan c ch) = finishDecim c d s := by
  unfold finishDecim
  rw [State.setChan_setChan]

/-! ### FILT as a run of commands (R521) -/

theorem runCommands_cons_next {i : Instr} {s t : State} (h : exec i s = .next t) (is : List Instr) :
    runCommands (i :: is) s = runCommands is t := by rw [runCommands, h]

theorem runCommands_cons_refused {i : Instr} {s : State} {r : Refusal} (h : exec i s = .refused r) (is : List Instr) :
    runCommands (i :: is) s = .refused r := by rw [runCommands, h]

theorem runCommands_cons_lstep {s : State} {c i : BitVec 4} (hl : s.legal (.lstep c i) = true) (is : List Instr) :
    runCommands (.lstep c i :: is) s = (ladderStep (s.ladderCtx (s.chan c.toNat).ladFc) i.toNat (s.chan c.toNat)).elim
      (.refused .gresNotSupplied) fun ch => runCommands is (s.setChan c.toNat ch) := by
  rw [runCommands, exec_lstep_eq hl]
  cases ladderStep (s.ladderCtx (s.chan c.toNat).ladFc) i.toNat (s.chan c.toNat) <;> rfl

/-- LSTEP c, 0 to LSTEP c, n−1, and then any commands. -/
theorem runCommands_lsteps_append {s : State} {c : BitVec 4} (hc : c.toNat < s.nch) {n : Nat} (hn : n ≤ s.factor)
    (is : List Instr) :
    runCommands ((List.range n).map (fun i => .lstep c (BitVec.ofNat 4 i)) ++ is) s =
      (ladderSteps (s.ladderCtx (s.chan c.toNat).ladFc) n (s.chan c.toNat)).elim (.refused .gresNotSupplied)
        fun ch => runCommands is (s.setChan c.toNat ch) := by
  induction n generalizing is with
  | zero => exact congrArg (runCommands is) (State.setChan_chan hc).symm
  | succ n ih =>
    rw [List.range_succ, List.map_append, List.append_assoc, ih (by omega), ladderSteps]
    cases hs : ladderSteps (s.ladderCtx (s.chan c.toNat).ladFc) n (s.chan c.toNat) with
    | none => rfl
    | some ch =>
      have hn16 : n < 2 ^ 4 := (Nat.lt_of_succ_le hn).trans_le ((osfOf s.cfg).factor_le.trans (by decide))
      have hi : (BitVec.ofNat 4 n).toNat = n := Nat.mod_eq_of_lt hn16
      have hself : (s.setChan c.toNat ch).chan c.toNat = ch := State.chan_setChan_self s c.toNat ch hc
      have hfc : ch.ladFc = (s.chan c.toNat).ladFc := by rw [ladderSteps_frame hs]
      have hl : (s.setChan c.toNat ch).legal (.lstep c (BitVec.ofNat 4 n)) = true :=
        (legal_lstep_iff ..).2 ⟨by rwa [State.nch_setChan], hi.symm ▸ hn⟩
      rw [List.map_singleton, List.singleton_append, Option.elim_some, Option.bind_some, runCommands_cons_lstep hl, hself, hi,
        hfc, State.ladderCtx_setChan]
      simp only [State.setChan_setChan]

/-- FILT and its pseudo-instruction have the same outcome, with the coefficients supplied or not. -/
theorem exec_filt_eq_runCommands_filtx {s : State} {c : BitVec 4} (hc : c.toNat < s.nch) :
    exec (.filt c) s = runCommands (filtx c s.factor) s := by
  have hself ch : (s.setChan c.toNat ch).chan c.toNat = ch := State.chan_setChan_self s c.toNat ch hc
  have hc' ch : c.toNat < (s.setChan c.toNat ch).nch := by rwa [State.nch_setChan]
  rw [exec_filt_eq ((legal_filt_iff s c).2 hc), filtx, List.cons_append,
    runCommands_cons_next (exec_ups s c ((legal_ups_iff s c).2 hc)), runCommands_lsteps_append (n := s.factor) (hc' _) le_rfl,
    hself, State.ladderCtx_setChan, upsample_ladFc, ladderFrame_eq]
  cases ladderSteps (s.ladderCtx (s.chan c.toNat).ladFc) s.factor (upsample s.params (osfOf s.cfg) (s.chan c.toNat)) with
  | none => rfl
  | some ch =>
    rw [Option.map_some, Option.elim_some, Option.elim_some, State.setChan_setChan,
      runCommands_cons_next (exec_dec (s.setChan c.toNat ch) c ((legal_dec_iff _ c).2 (hc' ch))), hself, finishDecim_setChan]
    rfl

/-! ### FILT as bus accesses (R521) -/

theorem finishDecim_withInputs (s : State) (c : Nat) (d : Decimated) (l : List Input) :
    finishDecim c d { s with inputs := l } = { finishDecim c d s with inputs := l } := by
  unfold finishDecim
  cases d.bad <;> rfl

/-- A channel command neither reads nor serves the inputs that wait. -/
theorem exec_onChannel_withInputs {c : BitVec 4} {i : Instr} (h : OnChannel c i) (s : State) :
    (∃ t : State, t.rstN = s.rstN ∧ ∀ l, exec i { s with inputs := l } = .next { t with inputs := l }) ∨
    ∃ r, ∀ l, exec i { s with inputs := l } = .refused r := by
  cases hl : s.legal i with
  | false => exact .inl ⟨illegalWord (encode i) s, rfl, fun l => exec_illegal i { s with inputs := l } hl⟩
  | true =>
    have hex l := exec_onChannel (s := { s with inputs := l }) h hl
    change ∀ l, _ = (channelResult s.params s.cfg s.fsHost (s.chan c.toNat) i).elim _ _ at hex
    cases hd : channelResult s.params s.cfg s.fsHost (s.chan c.toNat) i with
    | none => exact .inr ⟨.gresNotSupplied, fun l => by rw [hex, hd]; rfl⟩
    | some d =>
      obtain ⟨-, -, -, hr, -⟩ := sameHost_finishDecim s c.toNat d
      refine .inl ⟨finishDecim c.toNat d s, hr, fun l => ?_⟩
      rw [hex, hd, Option.elim_some, finishDecim_withInputs]

theorem core_step_encode {s : State} (hr : s.rstN = true) (i : Instr) (l : List Input) :
    Sys2Proof.core.step ({ s with inputs := commandInput (encode i) :: l } : State) = exec i { s with inputs := l } :=
  (step_commandInput (s := { s with inputs := commandInput (encode i) :: l }) hr rfl).trans
    (command_of_decode (decode_encode i) _)

theorem run_succ_next {M : Host.Core} {s t : M.State} (h : M.step s = .next t) (k : Nat) : M.run (k + 1) s = M.run k t := by
  rw [Host.Core.run, h]

theorem run_succ_refused {M : Host.Core} {s : M.State} {r : M.Refusal} (h : M.step s = .refused r) (k : Nat) :
    M.run (k + 1) s = .refused r := by rw [Host.Core.run, h]

/-- The words of channel commands, written to CMD with no other access between them, run the commands. -/
theorem run_commandInputs {c : BitVec 4} {is : List Instr} (h : ∀ i ∈ is, OnChannel c i) {s : State}
    (hr : s.rstN = true) (rest : List Input) :
    Sys2Proof.core.run is.length { s with inputs := is.map (fun i => commandInput (encode i)) ++ rest } =
      runCommands is { s with inputs := rest } := by
  induction is generalizing s with
  | nil => rfl
  | cons i is ih =>
    obtain ⟨hi, his⟩ := List.forall_mem_cons.1 h
    have hstep := core_step_encode hr i (is.map (fun i => commandInput (encode i)) ++ rest)
    rcases exec_onChannel_withInputs hi s with ⟨t, ht, hex⟩ | ⟨r, hex⟩
    · rw [runCommands_cons_next (hex rest), ← ih his (ht.trans hr)]
      exact run_succ_next (hstep.trans (hex _)) _
    · rw [runCommands_cons_refused (hex rest)]
      exact run_succ_refused (hstep.trans (hex _)) _

theorem onChannel_of_mem_filtx {c : BitVec 4} {n : Nat} {i : Instr} (h : i ∈ filtx c n) : OnChannel c i := by
  simp only [filtx, List.cons_append, List.mem_cons, List.mem_append, List.mem_map, List.not_mem_nil, or_false] at h
  rcases h with rfl | ⟨j, -, rfl⟩ | rfl
  · exact ⟨0, .inl rfl⟩
  · exact ⟨_, .inr (.inl rfl)⟩
  · exact ⟨0, .inr (.inr (.inl rfl))⟩

theorem filtx_length (c : BitVec 4) (n : Nat) : (filtx c n).length = n + 2 := by simp [filtx]

/-- Settles O36: the outcome of the frame is that of its commands, and channel commands do not touch the waiting inputs. -/
theorem filtEqualsFiltx : Obligations.FiltEqualsFiltx := by
  unfold Obligations.FiltEqualsFiltx
  intro s c hc
  refine ⟨exec_filt_eq_runCommands_filtx hc, fun hr rest => ?_⟩
  rw [← filtx_length c s.factor, run_commandInputs (fun _ => onChannel_of_mem_filtx) hr]
  exact (core_step_encode hr (.filt c) rest).trans (exec_filt_eq_runCommands_filtx (s := { s with inputs := rest }) hc)

/-! ### The command -/

/-- A decimation that is not finite records its value, and LAD_OUT and the ladder state are +0.0 after it. -/
theorem finishDecim_of_not_finite {s : State} {c : Nat} (hc : c < s.nch) {p : Params} {o : Osf} {ch : Channel}
    (h : isFinite32 (decimTap p o (decimHistory p o ch)) = false) :
    Recorded s (finishDecim c (decimate p o ch) s) .laddiv c 0 (decimTap p o (decimHistory p o ch)) ∧
      ((finishDecim c (decimate p o ch) s).chan c).ladOut = F32.zero ∧
      ((finishDecim c (decimate p o ch) s).chan c).lstate = LadderState.zero := by
  rw [chan_finishDecim_self hc, decimate_of_not_finite h]
  exact ⟨⟨rfl, rfl, rfl⟩, rfl, rfl⟩

/-- Settles O35: FILT puts a decimation back into its channel, which gives the finite LAD_OUT and the event. -/
theorem filtCommand : Obligations.FiltCommand := by
  unfold Obligations.FiltCommand
  intro s c hl hg
  have hc : c.toNat < s.nch := (legal_filt_iff s c).1 hl
  obtain ⟨ch, hd⟩ := ladderFrame_some s (s.chan c.toNat).ladFc (s.chan c.toNat) hg
  have hex := exec_filt s c hl hd
  obtain ⟨hin, hfc, hres⟩ := ladderFrame_inputs hd
  have hself := chan_finishDecim_self hc (decimate s.params (osfOf s.cfg) ch)
  refine ⟨_, hex, (exec_filt_eq_runCommands_filtx hc).symm.trans hex, ?_, ?_, ?_, ?_, ?_,
    fun c' hc' => chan_finishDecim_other hc' _, fun r hr he => readReg_finishDecim he ?_, sameHost_finishDecim ..,
    congrArg DynUnit.queue (finishDecim_dyn ..), illegalFormsRaise s _⟩
  · rw [hself]
    exact decimate_ladOut_finite ..
  · cases hf : isFinite32 (decimTap s.params (osfOf s.cfg) (decimHistory s.params (osfOf s.cfg) ch)) with
    | true =>
      rw [decimate_of_finite hf]
      exact .inl ⟨rfl, rfl, rfl⟩
    | false => exact .inr ⟨_, hf, finishDecim_of_not_finite hc hf⟩
  · rw [hself, hin]
  · rw [hself, hfc]
  · rw [hself, hres]
  · refine readReg_setChan hin hfc hres (fun h => ?_) (fun k h => ?_) fun i h => ?_ <;>
    · subst h
      simp [writtenBy] at hr

end Sys2Proof.Machine
end

section
/-! PROOFS. A NaN in a ladder channel (spec/42_ladder.md R530, R533): wherever it enters, the first iteration puts it into
OSBUF[0], and the decimation that ends the frame finds it there. -/

namespace Sys2Proof.Machine

/-! ### A NaN through one iteration (R510) -/

theorem isNaN32_nonlinear {p : Params} {x : F32} (h : isNaN32 x = true) : isNaN32 (nonlinear p x) = true := by
  rw [nonlinear_nan p h]
  decide

section
variable {p : Params} {co : Coefs} {r inp : F32} {l : LadderState}

/-- The update of one pole, `y + g·(NL(v) − w)`. -/
theorem stage_nan {y g v w : F32} (h : isNaN32 y = true ∨ isNaN32 g = true ∨ isNaN32 v = true ∨ isNaN32 w = true) :
    isNaN32 (f32Add y (f32Mul g (f32Sub (nonlinear p v) w))) = true :=
  f32Add_nan (h.imp_right fun h => f32Mul_nan (h.imp_right fun h => f32Sub_nan (h.imp_left isNaN32_nonlinear)))

/-- The input of the first pole, with the feedback taken off. -/
theorem feedback_nan {a : F32} (h : isNaN32 inp = true ∨ isNaN32 r = true ∨ isNaN32 l.ydpp = true) :
    isNaN32 (f32Sub inp (f32Mul (f32Mul a r) (f32Add l.yd l.ydpp))) = true :=
  f32Sub_nan (h.imp_right fun h => f32Mul_nan (h.imp (fun h => f32Mul_nan (.inr h)) fun h => f32Add_nan (.inr h)))

theorem ladderRecurrence_ya_nan (h : isNaN32 l.ya = true ∨
    (isNaN32 inp = true ∨ isNaN32 r = true ∨ isNaN32 l.ydpp = true) ∨ isNaN32 l.wa = true) :
    isNaN32 (ladderRecurrence p co r inp l).ya = true :=
  stage_nan (h.imp_right fun h => .inr (h.imp_left feedback_nan))

theorem ladderRecurrence_yb_nan (h : isNaN32 l.yb = true ∨ isNaN32 (ladderRecurrence p co r inp l).ya = true ∨
    isNaN32 l.wb = true) : isNaN32 (ladderRecurrence p co r inp l).yb = true := stage_nan (h.imp_right .inr)

theorem ladderRecurrence_yc_nan (h : isNaN32 l.yc = true ∨ isNaN32 (ladderRecurrence p co r inp l).yb = true ∨
    isNaN32 l.wc = true) : isNaN32 (ladderRecurrence p co r inp l).yc = true := stage_nan (h.imp_right .inr)

theorem ladderRecurrence_yd_nan (h : isNaN32 l.yd = true ∨ isNaN32 co.g = true ∨
    isNaN32 (ladderRecurrence p co r inp l).yc = true) : isNaN32 (ladderRecurrence p co r inp l).yd = true :=
  stage_nan (h.imp_right (Or.imp_right .inl))

/-- Every place a NaN can enter an iteration by reaches the last pole. -/
theorem ladderRecurrence_nan (h : isNaN32 inp = true ∨ isNaN32 co.g = true ∨ isNaN32 r = true ∨ l.hasNaN = true) :
    isNaN32 (ladderRecurrence p co r inp l).yd = true := by
  have hd (h : isNaN32 (ladderRecurrence p co r inp l).yc = true) := ladderRecurrence_yd_nan (.inr (.inr h))
  have hc (h : isNaN32 (ladderRecurrence p co r inp l).yb = true) := hd (ladderRecurrence_yc_nan (.inr (.inl h)))
  have hb (h : isNaN32 (ladderRecurrence p co r inp l).ya = true) := hc (ladderRecurrence_yb_nan (.inr (.inl h)))
  simp only [LadderState.hasNaN, Bool.or_eq_true, or_assoc] at h
  rcases h with hinp | hg | hr | hya | hyb | hyc | hyd | hwa | hwb | hwc | hydpp
  · exact hb (ladderRecurrence_ya_nan (.inr (.inl (.inl hinp))))
  · exact ladderRecurrence_yd_nan (.inr (.inl hg))
  · exact hb (ladderRecurrence_ya_nan (.inr (.inl (.inr (.inl hr)))))
  · exact hb (ladderRecurrence_ya_nan (.inl hya))
  · exact hc (ladderRecurrence_yb_nan (.inl hyb))
  · exact hd (ladderRecurrence_yc_nan (.inl hyc))
  · exact ladderRecurrence_yd_nan (.inl hyd)
  · exact hb (ladderRecurrence_ya_nan (.inr (.inr hwa)))
  · exact hc (ladderRecurrence_yb_nan (.inr (.inr hwb)))
  · exact hd (ladderRecurrence_yc_nan (.inr (.inr hwc)))
  · exact hb (ladderRecurrence_ya_nan (.inr (.inl (.inr (.inr hydpp)))))

end

/-- A NaN cutoff gives a NaN g (R502). -/
theorem gCoef_nan {k : LadderCtx} (h : isNaN32 k.fc = true) : isNaN32 (gCoef k.p (angularCutoff k)) = true := by
  have hw : isNaN64 (angularCutoff k) = true := f64Div_nan (.inl (f64Mul_nan (.inr ((isNaN64_widen _).trans h))))
  exact (isNaN32_narrow32 _).trans (f64Mul_nan (.inr (f64Add_nan (.inr (f64Mul_nan (.inl hw))))))

/-! ### A NaN through the sums of UPS and DEC (R452, R453) -/

/-- A sum of products is a NaN when one of the values is. -/
theorem sumTaps_nan {n j : Nat} (k : Nat → F32) {x : Nat → F32} (hj : j < n) (h : isNaN32 (x j) = true) :
    isNaN32 (sumTaps n k x) = true := by
  rw [sumTaps]
  induction n with
  | zero => exact absurd hj (Nat.not_lt_zero j)
  | succ n ih =>
    rw [List.range_succ, List.foldl_append, List.foldl_cons, List.foldl_nil]
    rcases Nat.lt_succ_iff_lt_or_eq.1 hj with hj | rfl
    · exact f32Add_nan (.inl (ih hj))
    · exact f32Add_nan (.inr (f32Mul_nan (.inr h)))

/-- A NaN in LAD_IN is in every polyphase sum, as the newest value of UH. -/
theorem os_upsample_nan {p : Params} {o : Osf} {ch : Channel} (hq : 1 ≤ p.q) (h : isNaN32 ch.ladIn = true) {i : Nat}
    (hi : i < o.factor) : isNaN32 ((upsample p o ch).os i) = true := by
  rw [os_upsample _ _ _ (hi.trans_le o.factor_le), if_pos hi]
  exact sumTaps_nan _ hq h

/-- A NaN among the N samples is in the decimated value. -/
theorem decimTap_nan {p : Params} {o : Osf} {ch : Channel} (hq : 1 ≤ p.q) (hd : ch.dh.length = 8 * p.q) {i : Nat}
    (hi : i < o.factor) (h : isNaN32 (ch.os i) = true) : isNaN32 (decimTap p o (decimHistory p o ch)) = true := by
  have hlt : o.factor - 1 - i < o.factor * p.q := (by omega : _ < o.factor).trans_le (Nat.le_mul_of_pos_right _ hq)
  refine sumTaps_nan _ hlt ?_
  rw [decimHistory_getD o hq hd, if_neg hlt.not_ge, if_pos (by omega), show o.factor - 1 - (o.factor - 1 - i) = i by omega]
  exact h

theorem not_finite_of_isNaN32 {x : F32} (h : isNaN32 x = true) : isFinite32 x = false := by
  simp only [isNaN32, isFinite32, decide_eq_true_eq, decide_eq_false_iff_not] at *
  omega

/-! ### A NaN through the frame (R520, R533) -/

/-- Later iterations leave OSBUF[0] as the first one wrote it. -/
theorem ladderSteps_os_zero_nan {k : LadderCtx} {n : Nat} {ch ch' : Channel} (hn : 1 ≤ n)
    (hin : isNaN32 (ch.os 0) = true ∨ isNaN32 k.fc = true ∨ isNaN32 ch.ladRes = true ∨ ch.lstate.hasNaN = true)
    (h : ladderSteps k n ch = some ch') : isNaN32 (ch'.os 0) = true := by
  induction n, hn using Nat.le_induction generalizing ch' with
  | base =>
    obtain ⟨co, hco, rfl⟩ := Option.map_eq_some_iff.1 h
    obtain ⟨gres, -, rfl⟩ := coefOf_eq_some_iff.1 hco
    rw [os_ladderIterate_self _ _ _ (by decide)]
    exact f32Div_nan (.inl (ladderRecurrence_nan (hin.imp (fun h => f32Mul_nan (.inl h)) (Or.imp_left gCoef_nan))))
  | succ n hn ih =>
    obtain ⟨ch₁, h₁, h₂⟩ := Option.bind_eq_some_iff.1 h
    obtain ⟨co, -, rfl⟩ := Option.map_eq_some_iff.1 h₂
    rw [os_ladderIterate_other _ _ _ (by omega)]
    exact ih h₁

/-- Settles O37: the NaN is in OSBUF[0] after the iterations, so the decimated value is a NaN and the recovery runs. -/
theorem nanIsZeroedWithinOneFrame : Obligations.NanIsZeroedWithinOneFrame := by
  unfold Obligations.NanIsZeroedWithinOneFrame
  intro s c hl hg hq _ hd hnan
  have hc : c.toNat < s.nch := (legal_filt_iff s c).1 hl
  have hn : 1 ≤ (osfOf s.cfg).factor := by cases osfOf s.cfg <;> decide
  obtain ⟨co, hco⟩ := exists_coefOf hg (s.chan c.toNat).ladFc
  obtain ⟨ch, hs⟩ := ladderSteps_some _ co hco s.factor (upsample s.params (osfOf s.cfg) (s.chan c.toNat))
  have hframe := (ladderFrame_eq s _ _).trans (congrArg (Option.map _) hs)
  have hos : isNaN32 (ch.os 0) = true := by
    refine ladderSteps_os_zero_nan hn ?_ hs
    exact hnan.imp_left fun h => os_upsample_nan hq h hn
  have hdh : ch.dh.length = 8 * s.params.q := by
    rw [ladderSteps_frame hs]
    exact hd
  have hacc := decimTap_nan hq hdh hn hos
  exact ⟨_, _, exec_filt s c hl hframe, hacc, finishDecim_of_not_finite hc (not_finite_of_isNaN32 hacc)⟩

end Sys2Proof.Machine
end

section
/-! PROOFS. Arithmetic the envelopes rest on: binary32 results lie where their exact values do, and products, sums and quotients
with 0 and 1 are exact (R13). -/

namespace Sys2Proof.Machine

/-! ### Rounding keeps order (R13(a)) -/

namespace Fmt
variable {w : Nat}

/-- Between two finite values rounding stays between them. -/
theorem Rounds.between {f : Fmt w} {r : ℚ} {y lo hi : BitVec w} (h : f.Rounds r y) (hlo : f.ieee.finite lo = true)
    (hhi : f.ieee.finite hi = true) (hl : f.ieee.val lo ≤ r) (hh : r ≤ f.ieee.val hi) :
    f.ieee.finite y = true ∧ f.ieee.val lo ≤ f.ieee.val y ∧ f.ieee.val y ≤ f.ieee.val hi := by
  have hbl := abs_lt.1 (f.abs_val_lt_bound hlo)
  have hbh := abs_lt.1 (f.abs_val_lt_bound hhi)
  obtain ⟨hnear, -⟩ := h
  obtain ⟨hy, hle⟩ := hnear (abs_lt.2 ⟨by linarith, by linarith⟩)
  refine ⟨hy, ?_, ?_⟩ <;> by_contra hlt
  · have := (hle lo hlo).1
    rw [abs_of_nonpos (by linarith), abs_of_nonpos (by linarith)] at this
    linarith
  · have := (hle hi hhi).1
    rw [abs_of_nonneg (by linarith), abs_of_nonneg (by linarith)] at this
    linarith

end Fmt

theorem f32Sub_rounds {a b : F32} (ha : isFinite32 a = true) (hb : isFinite32 b = true) :
    fmt32.Rounds (val32 a - val32 b) (f32Sub a b) := by
  obtain ⟨h32, -⟩ := addSubMulRoundToNearest
  obtain ⟨-, hsub, -⟩ := h32 a b ha hb
  exact (rounds32_iff ..).1 hsub

theorem f32Mul_rounds {a b : F32} (ha : isFinite32 a = true) (hb : isFinite32 b = true) :
    fmt32.Rounds (val32 a * val32 b) (f32Mul a b) := by
  obtain ⟨h32, -⟩ := addSubMulRoundToNearest
  obtain ⟨-, -, hmul⟩ := h32 a b ha hb
  exact (rounds32_iff ..).1 hmul

theorem f32Div_rounds {a b : F32} (ha : isFinite32 a = true) (hb : isFinite32 b = true) (hne : val32 b ≠ 0) :
    fmt32.Rounds (val32 a / val32 b) (f32Div a b) := by
  obtain ⟨h32, -⟩ := divAndNarrowRoundToNearest
  exact (rounds32_iff ..).1 ((h32 a b ha hb).1 hne)

/-! ### Signs -/

theorem msb_eq_getLsbD_31 (x : F32) : x.msb = x.getLsbD 31 := BitVec.msb_eq_getLsbD_last x

theorem val32_nonneg {x : F32} (hx : isFinite32 x = true) (hs : x.getLsbD 31 = false) : 0 ≤ val32 x := by
  rw [show val32 x = _ from fmt32.val_eq ((fmt32.finite_iff x).1 hx), Fmt.neg_eq_msb, msb_eq_getLsbD_31, hs, sgn,
    if_neg Bool.false_ne_true, one_mul]
  exact magVal_nonneg _

theorem getLsbD_31_of_val32_pos {x : F32} (hx : isFinite32 x = true) (h : 0 < val32 x) : x.getLsbD 31 = false := by
  rw [← msb_eq_getLsbD_31, ← Fmt.neg_eq_msb]
  by_contra hs
  rw [show val32 x = _ from fmt32.val_eq ((fmt32.finite_iff x).1 hx), (Bool.not_eq_false _).mp hs, sgn, if_pos rfl,
    neg_one_mul, neg_pos] at h
  exact absurd (magVal_nonneg _) h.not_ge

/-- A zero with its sign bit clear is `+0.0`. -/
theorem eq_zero_of_val32_eq_zero {x : F32} (hx : isFinite32 x = true) (hs : x.getLsbD 31 = false) (h : val32 x = 0) :
    x = F32.zero := by
  have hz : x = withSign x.msb 0 := (val32_eq_zero hx).1 h
  rw [hz, msb_eq_getLsbD_31, hs]
  rfl

theorem val32_f32Neg {x : F32} (hx : isFinite32 x = true) : isFinite32 (f32Neg x) = true ∧ val32 (f32Neg x) = -val32 x := by
  have hm := (fmt32.finite_iff x).1 hx
  obtain ⟨hf, hv, -⟩ := fmt32.finite_val_msb_make (!Fmt.neg x) hm
  refine ⟨hf, Eq.trans hv ?_⟩
  rw [show val32 x = _ from fmt32.val_eq hm, sgn_not, neg_mul]

/-! ### Operands 0 and 1 -/

theorem unpack32_one : unpack32 F32.one = .fin false 8388608 (-23) := by decide

/-- A product with 1 is the other factor: a zero keeps its sign, an infinity stays. -/
theorem f32Mul_one {x : F32} (h : ¬ IsNaN x) : f32Mul x F32.one = x := by
  rw [f32Mul, unpack32_one, unpack32_eq, pack32_eq]
  rcases fmt32.inf_or_finite (x := x) (Bool.not_eq_true _ ▸ h) with ⟨hx, hu⟩ | ⟨hx, -⟩
  · rw [hu]
    exact (congrArg (Fmt.make 32 · fmt32.inf) (Bool.bne_false _)).trans (fmt32.eq_make hx).symm
  · obtain ⟨m, e, hu, hv⟩ := fmt32.unpack_fin hx
    have hprod : ((m * 8388608 : Nat) : ℚ) * 2 ^ (e + -23) = magVal fmt32.frac fmt32.emin (Fmt.mag x) := by
      rw [← hv, zpow_add₀ two_ne_zero]
      norm_num
      ring
    rw [hu, fpMul, fmt32.pack_exact _ _ hprod hx.le, Bool.bne_false]
    exact fmt32.make_neg_mag x

theorem f32Mul_zero {x : F32} (h : isFinite32 x = true) : f32Mul x F32.zero = make32 (neg32 x) 0 := by
  obtain ⟨m, e, hu, -⟩ := fmt32.unpack_fin ((fmt32.finite_iff x).1 h)
  rw [f32Mul, unpack32_eq, hu, show fmt32.unpack F32.zero = .fin false 0 (-149) by decide, fpMul, Nat.mul_zero, Bool.bne_false]
  rfl

theorem val32_make32_zero (s : Bool) : val32 (make32 s 0) = 0 :=
  (val32_eq_zero (by cases s <;> decide)).2 ((fmt32.isSigned_zero _).2 (fmt32.mag_make s (by decide)))

theorem f32Add_signedZero {x : F32} (hx : isFinite32 x = true) (hs : x.getLsbD 31 = false) (s : Bool) :
    f32Add x (make32 s 0) = x := by
  by_cases h0 : val32 x = 0
  · rw [eq_zero_of_val32_eq_zero hx hs h0]
    cases s <;> decide
  · exact f32Add_eq_of_val hx (by cases s <;> decide) hx (by rw [val32_make32_zero, add_zero]) h0

theorem signedZero_f32Add {x : F32} (hx : isFinite32 x = true) (h0 : val32 x ≠ 0) (s : Bool) :
    f32Add (make32 s 0) x = x :=
  f32Add_eq_of_val (by cases s <;> decide) hx hx (by rw [val32_make32_zero, zero_add]) h0

theorem f32Div_self {x : F32} (hx : isFinite32 x = true) (h0 : val32 x ≠ 0) : f32Div x x = F32.one := by
  refine (f32Div_rounds hx hx h0).eq_of_val (z := F32.one) (by decide) ?_ ?_
  · exact (div_self h0).trans val32_one.symm
  · exact val32_one.trans_ne one_ne_zero

theorem zero_f32Div {x : F32} (hx : isFinite32 x = true) (hs : x.getLsbD 31 = false) (h0 : val32 x ≠ 0) :
    f32Div F32.zero x = F32.zero := by
  obtain ⟨m, e, hu, -⟩ := fmt32.unpack_fin ((fmt32.finite_iff x).1 hx)
  have hm : m ≠ 0 := by
    rintro rfl
    exact h0 (by rw [val32, unpack32_eq, hu, Fp.val_fin, Nat.cast_zero, zero_mul, mul_zero])
  rw [f32Div, unpack32_eq, hu, show fmt32.unpack F32.zero = .fin false 0 (-149) by decide, Fmt.neg_eq_msb, msb_eq_getLsbD_31, hs,
    fpDiv, if_neg hm]
  simp only [Nat.zero_mul, Nat.zero_div, Nat.zero_mod, if_true, Nat.mul_zero, Nat.add_zero]
  rfl

theorem f32OfNat_exact {n : Nat} (hn : n ≤ 2 ^ 24) :
    isFinite32 (f32OfNat n) = true ∧ val32 (f32OfNat n) = n ∧ (f32OfNat n).getLsbD 31 = false := by
  obtain ⟨-, h32, -⟩ := wideningIsExact
  rw [← msb_eq_getLsbD_31]
  exact h32 n hn

/-! ### Comparisons (R21) -/

/-- The greater of two finite values. -/
theorem f32Max_spec {a b : F32} (ha : isFinite32 a = true) (hb : isFinite32 b = true) :
    (f32Max a b = b ∧ val32 a < val32 b) ∨ (f32Max a b = a ∧ val32 b ≤ val32 a) := by
  cases h : f32Lt a b with
  | true => exact .inl ⟨if_pos h, (f32Lt_iff_val ha hb).1 h⟩
  | false => exact .inr ⟨if_neg (ne_true_of_eq_false h), not_lt.1 fun hlt => by simp [(f32Lt_iff_val ha hb).2 hlt] at h⟩

end Sys2Proof.Machine
end

section
/-! PROOFS. The conversion of a duration to ticks (spec/43_envelope.md R601). -/

namespace Sys2Proof.Machine

theorem val64_one : val64 0x3FF0000000000000#64 = 1 := by
  rw [val64, show unpack64 0x3FF0000000000000#64 = .fin false 4503599627370496 (-52) by decide, Fp.val_fin]
  norm_num [sgn]

theorem val64_two_pow_24 : val64 0x4170000000000000#64 = 16777216 := by
  rw [val64, show unpack64 0x4170000000000000#64 = .fin false 4503599627370496 (-28) by decide, Fp.val_fin]
  norm_num [sgn]

/-- steps(T) as a function of the product `v` of R601. -/
def stepsOfProduct (v : F64) : Word :=
  if isNaN64 v then 1
  else if f64Lt v 0x3FF0000000000000#64 then 1
  else if f64Lt 0x4170000000000000#64 v then 16777216
  else BitVec.ofNat 32 (f64Floor v)

theorem stepsOf_eq (fs : F32) (t : F64) : stepsOf fs t = stepsOfProduct (f64Mul t (widen fs)) := rfl

theorem stepsOfProduct_nan {v : F64} (h : isNaN64 v = true) : stepsOfProduct v = 1 := if_pos h

theorem stepsOfProduct_low {v : F64} (hn : isNaN64 v = false) (h : f64Lt v 0x3FF0000000000000#64 = true) :
    stepsOfProduct v = 1 := by
  rw [stepsOfProduct, if_neg (ne_true_of_eq_false hn), if_pos h]

theorem stepsOfProduct_high {v : F64} (hn : isNaN64 v = false) (hl : f64Lt v 0x3FF0000000000000#64 = false)
    (h : f64Lt 0x4170000000000000#64 v = true) : stepsOfProduct v = 16777216 := by
  rw [stepsOfProduct, if_neg (ne_true_of_eq_false hn), if_neg (ne_true_of_eq_false hl), if_pos h]

theorem stepsOfProduct_floor {v : F64} (hn : isNaN64 v = false) (hl : f64Lt v 0x3FF0000000000000#64 = false)
    (hh : f64Lt 0x4170000000000000#64 v = false) : (stepsOfProduct v).toNat = f64Floor v := by
  rw [stepsOfProduct, if_neg (ne_true_of_eq_false hn), if_neg (ne_true_of_eq_false hl), if_neg (ne_true_of_eq_false hh),
    BitVec.toNat_ofNat, Nat.mod_eq_of_lt]
  have := (f64Floor_of_range v hn hl hh).2
  omega

/-- Settles O40: the comparisons of R601 are those of the product's value, whose floor fits a register. -/
theorem stepsConversion : Obligations.StepsConversion := by
  unfold Obligations.StepsConversion
  intro fs T
  rw [stepsOf_eq]
  generalize f64Mul T (widen fs) = v
  have hlow : isFinite64 v = true → (f64Lt v 0x3FF0000000000000#64 = true ↔ val64 v < 1) := fun hv => by
    rw [f64Lt_iff_val hv (by decide), val64_one]
  have hhigh : isFinite64 v = true → (f64Lt 0x4170000000000000#64 v = true ↔ 16777216 < val64 v) := fun hv => by
    rw [f64Lt_iff_val (by decide) hv, val64_two_pow_24]
  refine ⟨stepsOfProduct_nan, ?_, ?_, fun hf h1 h2 => ?_⟩
  · rintro (rfl | ⟨hf, h⟩)
    · decide
    · exact stepsOfProduct_low (isNaN64_eq_false_of_finite hf) ((hlow hf).2 h)
  · rintro (rfl | ⟨hf, h⟩)
    · decide
    · refine stepsOfProduct_high (isNaN64_eq_false_of_finite hf) ?_ ((hhigh hf).2 h)
      rw [← Bool.not_eq_true, hlow hf]
      linarith
  · have hl : f64Lt v 0x3FF0000000000000#64 = false := by
      rw [← Bool.not_eq_true, hlow hf]
      exact h1.not_gt
    have hh : f64Lt 0x4170000000000000#64 v = false := by
      rw [← Bool.not_eq_true, hhigh hf]
      exact h2.not_gt
    rw [stepsOfProduct_floor (isNaN64_eq_false_of_finite hf) hl hh]
    exact f64Floor_eq hf (by linarith)

end Sys2Proof.Machine
end

section
/-! PROOFS. What one envelope tick does (spec/43_envelope.md R602 to R611): the ramps at step 0 and at the target, a tick with an
edge, and a tick without one. -/

namespace Sys2Proof.Machine

/-! ### The ramps at their ends (R604, R607) -/

theorem f32OfNat_target {n : Nat} (h1 : 1 ≤ n) (h2 : n ≤ 2 ^ 24) :
    isFinite32 (f32OfNat n) = true ∧ val32 (f32OfNat n) ≠ 0 ∧ (f32OfNat n).getLsbD 31 = false := by
  obtain ⟨hf, hv, hs⟩ := f32OfNat_exact h2
  exact ⟨hf, hv.trans_ne (Nat.cast_ne_zero.2 (by omega)), hs⟩

theorem rampTime_start {e : EnvBank} (hs : e.step = 0) (h1 : 1 ≤ e.target.toNat) (h2 : e.target.toNat ≤ 2 ^ 24) :
    rampTime e = F32.zero := by
  obtain ⟨hf, h0, hp⟩ := f32OfNat_target h1 h2
  rw [rampTime, hs]
  exact zero_f32Div hf hp h0

theorem rampTime_target {e : EnvBank} (hs : e.step = e.target) (h1 : 1 ≤ e.target.toNat) (h2 : e.target.toNat ≤ 2 ^ 24) :
    rampTime e = F32.one := by
  obtain ⟨hf, h0, -⟩ := f32OfNat_target h1 h2
  rw [rampTime, hs, f32Div_self hf h0]

theorem attackCurve_zero (acc : Bool) : attackCurve acc F32.zero = F32.zero := by cases acc <;> decide
theorem attackCurve_one (acc : Bool) : attackCurve acc F32.one = F32.one := by cases acc <;> decide

theorem one_sub_zero : f32Sub F32.one F32.zero = F32.one := by decide
theorem one_sub_one : f32Sub F32.one F32.one = F32.zero := by decide

/-! ### The level, mode by mode (R602) -/

theorem envCurrent_attack {k : EnvCtx} {e : EnvBank} (h : e.mode = .attack) :
    envCurrent k e = f32Add (f32Mul e.start (f32Sub F32.one (attackCurve e.acc (rampTime e))))
      (f32Mul e.peakt (attackCurve e.acc (rampTime e))) := by
  rw [envCurrent, h]

theorem envCurrent_peak {k : EnvCtx} {e : EnvBank} (h : e.mode = .peak) : envCurrent k e = e.peakt := by
  rw [envCurrent, h]

theorem envCurrent_decay {k : EnvCtx} {e : EnvBank} (h : e.mode = .decay) :
    envCurrent k e = if k.lin then f32Max (f32Sub e.current e.factor) k.p.envMin else f32Mul e.current e.factor := by
  rw [envCurrent, h]

theorem envCurrent_noteEnd {k : EnvCtx} {e : EnvBank} (h : e.mode = .noteEnd) :
    envCurrent k e = f32Mul e.start (f32Sub F32.one (rampTime e)) := by
  rw [envCurrent, h]

theorem envLevel_silence {k : EnvCtx} {e : EnvBank} (h : e.mode = .silence) :
    envLevel k e = { e with current := k.p.envMin, level := F32.zero } := by
  rw [envLevel, envCurrent, h]
  rfl

theorem envLevel_sounding {k : EnvCtx} {e : EnvBank} (h : e.mode ≠ .silence) :
    envLevel k e = { e with current := envCurrent k e, level := envCurrent k e } := by
  rw [envLevel, if_neg h]

/-! ### The counter's transitions, mode by mode (R608, R609) -/

theorem envAdvance_peak {tr : TR} {k : EnvCtx} {e : EnvBank} (h : e.mode = .attack) (ha : e.acc = true) :
    envAdvance tr k e = { e with mode := .peak, step := 0, target := stepsOf k.fs (widen e.tPeak) } := by
  simp only [envAdvance, h, ha, if_true]

theorem envAdvance_decay {tr : TR} {k : EnvCtx} {e : EnvBank}
    (h : (e.mode = .attack ∧ e.acc = false) ∨ e.mode = .peak) : envAdvance tr k e = enterDecay tr k e := by
  rcases h with ⟨h, ha⟩ | h
  · simp only [envAdvance, h, ha, Bool.false_eq_true, if_false]
  · simp only [envAdvance, h]

theorem envAdvance_held {tr : TR} {k : EnvCtx} {e : EnvBank} (h : e.mode = .decay) (hh : decayHeld k e = true) :
    envAdvance tr k e = e := by
  simp only [envAdvance, h, hh, if_true]

theorem envAdvance_noteEnd {tr : TR} {k : EnvCtx} {e : EnvBank} (h : e.mode = .decay) (hh : decayHeld k e = false) :
    envAdvance tr k e = enterNoteEnd k e := by
  simp only [envAdvance, h, hh, Bool.false_eq_true, if_false]

theorem envAdvance_silence {tr : TR} {k : EnvCtx} {e : EnvBank} (h : e.mode = .noteEnd) :
    envAdvance tr k e = { e with mode := .silence, current := k.p.envMin } := by
  simp only [envAdvance, h]

theorem decayHeld_iff (k : EnvCtx) (e : EnvBank) :
    decayHeld k e = true ↔ k.bank = .vcf ∧ e.acc = true ∧ f32Le e.current k.p.envMin = false := by
  simp [decayHeld, and_assoc]

/-! ### A tick without an edge -/

section
variable {tr : TR} {k : EnvCtx} {e : EnvBank}

theorem envTick_silence (hg : k.gate = e.gprev) (hm : e.mode = .silence) :
    envTick tr k e = { e with current := k.p.envMin, level := F32.zero } := by
  rw [envTick_noEdge tr k e hg, envLevel_silence hm, envCount, if_pos hm]

/-- The bank after the level step, with its step counted. -/
def countedLevel (k : EnvCtx) (e : EnvBank) : EnvBank :=
  { e with current := envCurrent k e, level := envCurrent k e, step := satInc e.step }

theorem envTick_counting (hg : k.gate = e.gprev) (hm : e.mode ≠ .silence)
    (hd : ¬ e.target.toNat < (satInc e.step).toNat) : envTick tr k e = countedLevel k e := by
  rw [envTick_noEdge tr k e hg, envLevel_sounding hm, envCount, if_neg hm, if_neg hd]
  rfl

theorem envTick_done (hg : k.gate = e.gprev) (hm : e.mode ≠ .silence) (hd : e.target.toNat < (satInc e.step).toNat) :
    envTick tr k e = envAdvance tr k (countedLevel k e) := by
  rw [envTick_noEdge tr k e hg, envLevel_sounding hm, envCount, if_neg hm, if_pos hd]
  rfl

/-- A counter's transition keeps what it does not compute. -/
theorem envAdvance_keeps (tr : TR) (k : EnvCtx) (e : EnvBank) :
    (envAdvance tr k e).acc = e.acc ∧ (envAdvance tr k e).gprev = e.gprev ∧ (envAdvance tr k e).peakt = e.peakt ∧
      (envAdvance tr k e).level = e.level := by
  unfold envAdvance
  split
  · split <;> exact ⟨rfl, rfl, rfl, rfl⟩
  · exact ⟨rfl, rfl, rfl, rfl⟩
  · split <;> exact ⟨rfl, rfl, rfl, rfl⟩
  · exact ⟨rfl, rfl, rfl, rfl⟩
  · exact ⟨rfl, rfl, rfl, rfl⟩

/-- A counter's transition leaves CURRENT but for the floor of SILENCE (R611). -/
theorem envAdvance_current (tr : TR) (k : EnvCtx) {e : EnvBank} (h : e.mode ≠ .silence) :
    (envAdvance tr k e).current = if (envAdvance tr k e).mode = .silence then k.p.envMin else e.current := by
  unfold envAdvance
  split
  · split <;> rfl
  · rfl
  · split <;> rfl
  · rfl
  next hs => exact absurd hs h

theorem envTick_keeps (hg : k.gate = e.gprev) :
    (envTick tr k e).acc = e.acc ∧ (envTick tr k e).gprev = e.gprev ∧ (envTick tr k e).peakt = e.peakt := by
  by_cases hm : e.mode = .silence
  · rw [envTick_silence hg hm]
    exact ⟨rfl, rfl, rfl⟩
  by_cases hd : e.target.toNat < (satInc e.step).toNat
  · obtain ⟨ha, hp, hk, -⟩ := envAdvance_keeps tr k (countedLevel k e)
    rw [envTick_done hg hm hd]
    exact ⟨ha, hp, hk⟩
  · rw [envTick_counting hg hm hd]
    exact ⟨rfl, rfl, rfl⟩

theorem envTick_level (hg : k.gate = e.gprev) (hm : e.mode ≠ .silence) : (envTick tr k e).level = envCurrent k e := by
  by_cases hd : e.target.toNat < (satInc e.step).toNat
  · obtain ⟨-, -, -, hl⟩ := envAdvance_keeps tr k (countedLevel k e)
    rw [envTick_done hg hm hd]
    exact hl
  · rw [envTick_counting hg hm hd]
    rfl

theorem envTick_current (hg : k.gate = e.gprev) :
    (envTick tr k e).current = if (envTick tr k e).mode = .silence then k.p.envMin else (envTick tr k e).level := by
  by_cases hm : e.mode = .silence
  · rw [envTick_silence hg hm, if_pos hm]
  · rw [envTick_level hg hm]
    by_cases hd : e.target.toNat < (satInc e.step).toNat
    · rw [envTick_done hg hm hd]
      exact envAdvance_current tr k (e := countedLevel k e) hm
    · rw [envTick_counting hg hm hd]
      exact (if_neg hm).symm

end

/-! ### A tick with an edge (R603) -/

theorem enterAttack_current (k : EnvCtx) (e : EnvBank) :
    envCurrent k (enterAttack k e) = f32Add (f32Mul e.current (f32Sub F32.one F32.zero))
      (f32Mul (if k.accent then e.peakLvl else F32.one) F32.zero) := by
  obtain ⟨h1, h2⟩ := stepsOf_range k.fs (attackTime k e)
  rw [envCurrent_attack rfl, rampTime_start rfl h1 h2, attackCurve_zero]
  rfl

theorem enterNoteEnd_current (k : EnvCtx) (e : EnvBank) :
    envCurrent k (enterNoteEnd k e) = f32Mul e.current (f32Sub F32.one F32.zero) := by
  obtain ⟨h1, h2⟩ := stepsOf_range k.fs (widen e.tEnd)
  rw [envCurrent_noteEnd rfl, rampTime_start rfl h1 h2]
  rfl

section
variable (tr : TR) {k : EnvCtx} {e : EnvBank}

/-- A mode entered at an edge shows its level of step 0 and counts to step 1. -/
theorem envTick_of_entered {b : EnvBank} (he : envEdge k e = b) (hm : b.mode ≠ .silence) (hs : b.step = 0) (fs : F32) (t : F64)
    (ht : b.target = stepsOf fs t) :
    envTick tr k e = { b with current := envCurrent k b, level := envCurrent k b, step := 1 } := by
  rw [envTick, he, envLevel_sounding hm]
  exact envCount_entered tr k { b with current := envCurrent k b, level := envCurrent k b } hm hs fs t ht

theorem envTick_rise (hk : k.gate = true) (hp : e.gprev = false) :
    envTick tr k e =
      { enterAttack k { e with gprev := true } with
        current := envCurrent k (enterAttack k { e with gprev := true })
        level := envCurrent k (enterAttack k { e with gprev := true })
        step := 1 } := by
  have he : envEdge k e = enterAttack k { e with gprev := true } := by simp [envEdge, hk, hp]
  exact envTick_of_entered tr he nofun rfl _ _ rfl

theorem envTick_fall (hk : k.gate = false) (hp : e.gprev = true) (hgm : k.gmode = true) (hm : e.mode.gated = true) :
    envTick tr k e =
      { enterNoteEnd k { e with gprev := false } with
        current := envCurrent k (enterNoteEnd k { e with gprev := false })
        level := envCurrent k (enterNoteEnd k { e with gprev := false })
        step := 1 } := by
  have he : envEdge k e = enterNoteEnd k { e with gprev := false } := by simp [envEdge, hk, hp, hgm, hm]
  exact envTick_of_entered tr he nofun rfl _ _ rfl

/-- Any other tick is a tick without an edge, but for gprev. -/
theorem envTick_of_no_entry (hr : ¬ (k.gate = true ∧ e.gprev = false))
    (hf : ¬ (k.gate = false ∧ e.gprev = true ∧ k.gmode = true ∧ e.mode.gated = true)) :
    envTick tr k e = envTick tr k { e with gprev := k.gate } := by
  rcases envEdge_cases k e with ⟨h1, h2, -⟩ | ⟨h1, h2, h3, h4, -⟩ | ⟨-, -, he⟩
  · exact absurd ⟨h1, h2⟩ hr
  · exact absurd ⟨h1, h2, h3, h4⟩ hf
  · rw [envTick_noEdge tr k { e with gprev := k.gate } rfl, envTick, he]

end

theorem EnvMode.gated_iff (m : EnvMode) : m.gated = true ↔ m = .attack ∨ m = .peak ∨ m = .decay := by
  cases m <;> simp [EnvMode.gated]

end Sys2Proof.Machine
end

section
/-! PROOFS. The envelope statements (spec/43_envelope.md R602 to R612): the transition table, the edges, the levels, the counter's
entries, and runs of ticks. -/

namespace Sys2Proof.Machine

/-! ### The transition table (R610) -/

/-- Where no falling edge ends the mode, the table does not read the edge. -/
theorem nextMode_of_no_entry {fall gmode : Bool} {m : EnvMode} (h : m.gated = true → (fall && gmode) = false)
    (bank : Bank) (acc done floor : Bool) :
    nextMode bank acc false fall gmode done floor m = nextMode bank acc false false false done floor m := by
  cases m with
  | attack | peak | decay => simp only [nextMode, h rfl, Bool.and_false]
  | noteEnd | silence => rfl

theorem nextMode_counting (bank : Bank) (acc floor : Bool) (m : EnvMode) :
    nextMode bank acc false false false false floor m = m := by
  cases m <;> rfl

/-- On a tick without an edge the table is that of the counter alone. -/
theorem envTick_mode {tr : TR} {k : EnvCtx} {e : EnvBank} (hg : k.gate = e.gprev) :
    (envTick tr k e).mode =
      nextMode k.bank e.acc false false false (decide (e.target.toNat < (satInc e.step).toNat))
        (f32Le (envTick tr k e).current k.p.envMin) e.mode := by
  by_cases hd : e.target.toNat < (satInc e.step).toNat
  · rw [decide_eq_true hd]
    cases hm : e.mode with
    | silence =>
      rw [envTick_silence hg hm]
      exact hm
    | attack =>
      rw [envTick_done hg (hm ▸ nofun) hd]
      cases ha : e.acc with
      | true =>
        rw [envAdvance_peak (e := countedLevel k e) hm ha]
        rfl
      | false =>
        rw [envAdvance_decay (e := countedLevel k e) (.inl ⟨hm, ha⟩)]
        rfl
    | peak =>
      rw [envTick_done hg (hm ▸ nofun) hd, envAdvance_decay (e := countedLevel k e) (.inr hm)]
      rfl
    | decay =>
      rw [envTick_done hg (hm ▸ nofun) hd]
      cases hh : decayHeld k (countedLevel k e) with
      | true =>
        rw [envAdvance_held (e := countedLevel k e) hm hh]
        exact hm.trans (if_pos hh).symm
      | false =>
        rw [envAdvance_noteEnd (e := countedLevel k e) hm hh]
        exact (if_neg (ne_true_of_eq_false hh)).symm
    | noteEnd =>
      rw [envTick_done hg (hm ▸ nofun) hd, envAdvance_silence (e := countedLevel k e) hm]
      rfl
  · rw [decide_eq_false hd, nextMode_counting]
    by_cases hm : e.mode = .silence
    · rw [envTick_silence hg hm]
    · rw [envTick_counting hg hm hd]
      rfl

/-- Settles O41: a rising edge gives ATTACK and a falling one NOTE_END whatever the counter says; any other tick is one
without an edge. -/
theorem envelopeTransitionTable : Obligations.EnvelopeTransitionTable := by
  unfold Obligations.EnvelopeTransitionTable
  intro tr k e
  by_cases hr : k.gate = true ∧ e.gprev = false
  · obtain ⟨hk, hp⟩ := hr
    have hm : (envTick tr k e).mode = .attack := by rw [envTick_rise tr hk hp]; rfl
    rw [hm, hk, hp]
    cases e.mode <;> rfl
  have hrise : (k.gate && !e.gprev) = false := by simpa using hr
  rw [hrise]
  by_cases hf : k.gate = false ∧ e.gprev = true ∧ k.gmode = true ∧ e.mode.gated = true
  · obtain ⟨hk, hp, hgm, hm⟩ := hf
    have hm' : (envTick tr k e).mode = .noteEnd := by rw [envTick_fall tr hk hp hgm hm]; rfl
    rw [hm', hk, hp, hgm]
    rcases e.mode.gated_iff.1 hm with h | h | h <;> rw [h] <;> rfl
  · rw [envTick_of_no_entry tr hr hf, nextMode_of_no_entry]
    · exact envTick_mode (e := { e with gprev := k.gate }) rfl
    · intro hm
      rw [← Bool.not_eq_true]
      simpa [hm, and_assoc] using hf

/-! ### Edges (R603) -/

theorem envTick_gprev (tr : TR) (k : EnvCtx) (e : EnvBank) : (envTick tr k e).gprev = k.gate := by
  by_cases hr : k.gate = true ∧ e.gprev = false
  · rw [envTick_rise tr hr.1 hr.2, hr.1]
    rfl
  by_cases hf : k.gate = false ∧ e.gprev = true ∧ k.gmode = true ∧ e.mode.gated = true
  · obtain ⟨hk, hp, hgm, hm⟩ := hf
    rw [envTick_fall tr hk hp hgm hm, hk]
    rfl
  · rw [envTick_of_no_entry tr hr hf]
    obtain ⟨-, hp, -⟩ := envTick_keeps (tr := tr) (k := k) (e := { e with gprev := k.gate }) rfl
    exact hp

/-- ACCENT is read at a rising edge alone. -/
theorem envTick_accent (tr : TR) {k : EnvCtx} {e : EnvBank} (hr : ¬ (k.gate = true ∧ e.gprev = false)) (x : Bool) :
    envTick tr { k with accent := x } e = envTick tr k e := by
  have he : envEdge { k with accent := x } e = envEdge k e := by
    have hr' : ¬ (k.gate && !e.gprev) = true := by simpa using hr
    simp only [envEdge, if_neg hr']
    rfl
  rw [envTick, he]
  rfl

/-- The level at step 0 of an attack is the level before. -/
theorem attack_start_level {cur peak : F32} (hc : isFinite32 cur = true) (hs : cur.getLsbD 31 = false)
    (hp : isFinite32 peak = true) :
    f32Add (f32Mul cur (f32Sub F32.one F32.zero)) (f32Mul peak F32.zero) = cur := by
  have hn : ¬ IsNaN cur := ne_true_of_eq_false (isNaN32_eq_false_of_finite hc)
  rw [one_sub_zero, f32Mul_one hn, f32Mul_zero hp, f32Add_signedZero hc hs]

/-- Settles O42: each edge enters its mode at step 0, and ticks once from there. -/
theorem edgesStartAndEndTheNote : Obligations.EdgesStartAndEndTheNote := by
  unfold Obligations.EdgesStartAndEndTheNote
  refine fun tr k e => ⟨envTick_gprev tr k e, fun hk hp => ⟨?_, attack_start_level⟩, fun hk hp hgm hm => ⟨?_, fun hn => ?_⟩,
    fun hk hp hm => ?_, fun hr => envTick_accent tr hr⟩
  · rw [envTick_rise tr hk hp, enterAttack_current]
    rfl
  · rw [envTick_fall tr hk hp hgm (e.mode.gated_iff.2 hm), enterNoteEnd_current]
    rfl
  · rw [one_sub_zero, f32Mul_one hn]
  · rw [envTick_of_no_entry tr (by simp [hp]) ?_, hk]
    rintro ⟨-, -, hgm, hg⟩
    rcases hm with h | h | h
    · rw [h] at hgm
      cases hgm
    · rw [h] at hg
      cases hg
    · rw [h] at hg
      cases hg

/-! ### Levels (R602, R604 to R607, R611) -/

/-- Settles O43: mode by mode, the level step's value; the counter step moves CURRENT in entering SILENCE alone. -/
theorem envelopeLevelOfEachMode : Obligations.EnvelopeLevelOfEachMode := by
  unfold Obligations.EnvelopeLevelOfEachMode
  refine fun tr k e hg => ⟨fun hm => ?_, fun hm => ?_, fun hm => ?_, fun hm => ?_, fun hm => ?_, envTick_current hg⟩
  · rw [envTick_level hg (hm ▸ nofun), envCurrent_attack hm]
    rfl
  · rw [envTick_level hg (hm ▸ nofun), envCurrent_peak hm]
  · rw [envTick_level hg (hm ▸ nofun), envCurrent_decay hm]
  · rw [envTick_level hg (hm ▸ nofun), envCurrent_noteEnd hm]
    rfl
  · rw [envTick_silence hg hm]

/-- Settles O45: at step = target the ramp time and the curve are exactly 1. -/
theorem attackReachesItsPeak : Obligations.AttackReachesItsPeak := by
  unfold Obligations.AttackReachesItsPeak
  intro tr k e hg hm hs h1 h2 hstart hpeak h0
  have hn : ¬ IsNaN e.peakt := ne_true_of_eq_false (isNaN32_eq_false_of_finite hpeak)
  rw [envTick_level hg (hm ▸ nofun), envCurrent_attack hm, rampTime_target hs h1 h2, attackCurve_one, one_sub_one,
    f32Mul_zero hstart, f32Mul_one hn, signedZero_f32Add hpeak h0]

/-! ### The counter (R608, R609) -/

theorem decayFactor_eq (tr : TR) (k : EnvCtx) (current : F32) (target : Word) :
    decayFactor tr k current target = narrow32 (f64Max 0
      (if k.lin then f64Div (f64Sub (widen current) (widen k.p.envMin)) (f64OfNat target.toNat)
      else f64Add 0x3FF0000000000000#64
        (f64Div (f64Sub (trLn tr (widen k.p.envMin)) (trLn tr (widen current))) (f64OfNat target.toNat)))) := by
  unfold decayFactor
  cases k.lin <;> rfl

/-- Settles O44: the level step and the count, then the entry of the next mode when the count exceeds the target. -/
theorem counterTriggeredEntries : Obligations.CounterTriggeredEntries := by
  unfold Obligations.CounterTriggeredEntries
  intro tr k e hg
  obtain ⟨hacc, hgp, hpk⟩ := envTick_keeps (tr := tr) hg
  refine ⟨hacc, hgp, hpk, fun hm hd => ?_, fun hm ha hd => ?_, fun hm hd => ?_, fun hm hd hh => ?_,
    fun hm hd hb ha hh => ?_, fun hm hd => ?_⟩
  · rw [envTick_counting hg hm hd]
    exact ⟨rfl, rfl, rfl, rfl, rfl⟩
  · rw [envTick_done hg (hm ▸ nofun) hd, envAdvance_peak (e := countedLevel k e) hm ha]
    exact ⟨rfl, rfl, rfl, rfl, rfl⟩
  · have hs : e.mode ≠ .silence := by rcases hm with ⟨h, -⟩ | h <;> rw [h] <;> nofun
    rw [envTick_done hg hs hd, envAdvance_decay (e := countedLevel k e) hm]
    exact ⟨rfl, rfl, rfl, rfl, decayFactor_eq tr k (envCurrent k e) _⟩
  all_goals have hs : e.mode ≠ .silence := hm ▸ nofun
  · rw [envTick_level hg hs] at hh
    rw [envTick_done hg hs hd, envAdvance_noteEnd (e := countedLevel k e) hm
      (Bool.not_eq_true _ ▸ fun h => hh ((decayHeld_iff ..).1 h))]
    exact ⟨rfl, rfl, rfl, rfl, rfl⟩
  · rw [envTick_level hg hs] at hh
    rw [envTick_done hg hs hd, envAdvance_held (e := countedLevel k e) hm ((decayHeld_iff ..).2 ⟨hb, ha, hh⟩)]
    exact ⟨hm, rfl, rfl, rfl, rfl⟩
  · rw [envTick_done hg hs hd, envAdvance_silence (e := countedLevel k e) hm]
    exact ⟨rfl, rfl, rfl, rfl, rfl, rfl⟩

/-! ### SILENCE (R611) -/

/-- Settles O47: a tick of SILENCE leaves CURRENT at MIN, from where a rising edge starts. -/
theorem silenceIsAbsorbing : Obligations.SilenceIsAbsorbing := by
  unfold Obligations.SilenceIsAbsorbing
  intro tr k e hm
  have hstay : ¬ (k.gate = true ∧ e.gprev = false) →
      envTick tr k e = { e with gprev := k.gate, level := F32.zero, current := k.p.envMin } := fun hr => by
    rw [envTick_of_no_entry tr hr (by simp [hm, EnvMode.gated]), envTick_silence (e := { e with gprev := k.gate }) rfl hm]
  refine ⟨hstay, fun k' hk hk' => ?_⟩
  rw [hstay (by simp [hk]), envTick_rise tr hk' hk]
  exact ⟨rfl, rfl⟩

/-! ### The note end (R607, R612(d)) -/

/-- A released bank with its gate low, `n` of the `t` ticks of its ramp behind it. -/
structure Releasing (t : Word) (start : F32) (n : Nat) (e : EnvBank) : Prop where
  mode   : e.mode = .noteEnd
  gprev  : e.gprev = false
  step   : e.step.toNat = n
  target : e.target = t
  start  : e.start = start

section
variable {tr : TR} {k : EnvCtx} {e : EnvBank} {t : Word} {start : F32} {n : Nat}

theorem Releasing.tick (h : Releasing t start n e) (hk : k.gate = false) (hn : n < t.toNat) :
    Releasing t start (n + 1) (envTick tr k e) := by
  have hsat : (satInc e.step).toNat = n + 1 := by
    have := t.isLt
    rw [satInc_toNat, h.step]
    omega
  have hd : ¬ e.target.toNat < (satInc e.step).toNat := by
    rw [hsat, h.target]
    omega
  rw [envTick_counting (hk.trans h.gprev.symm) (h.mode ▸ nofun) hd]
  exact ⟨h.mode, h.gprev, hsat, h.target, h.start⟩

theorem Releasing.run {ks : List EnvCtx} (h : Releasing t start n e) (hks : ∀ k ∈ ks, k.gate = false)
    (hn : n + ks.length ≤ t.toNat) : Releasing t start (n + ks.length) (envRun tr ks e) := by
  induction ks generalizing n e with
  | nil => exact h
  | cons k ks ih =>
    rw [List.length_cons] at hn ⊢
    rw [← Nat.add_assoc, Nat.add_right_comm] at hn ⊢
    exact ih (h.tick (hks k List.mem_cons_self) (by omega)) (fun k' hk' => hks k' (List.mem_cons_of_mem _ hk')) hn

/-- The tick at the end of the ramp: the level is exactly +0.0, and the counter enters SILENCE. -/
theorem Releasing.last (h : Releasing t start t.toNat e) (hk : k.gate = false) (h1 : 1 ≤ t.toNat) (h2 : t.toNat ≤ 2 ^ 24)
    (hf : isFinite32 start = true) (hs : start.getLsbD 31 = false) :
    (envTick tr k e).mode = .silence ∧ (envTick tr k e).level = F32.zero := by
  have hg : k.gate = e.gprev := hk.trans h.gprev.symm
  have hstep : e.step = e.target := BitVec.eq_of_toNat_eq (h.step.trans (congrArg _ h.target.symm))
  have hneg : neg32 start = false := (Fmt.neg_eq_msb start).trans ((msb_eq_getLsbD_31 start).trans hs)
  have hd : e.target.toNat < (satInc e.step).toNat := by
    rw [satInc_toNat, hstep, h.target]
    omega
  rw [← h.target] at h1 h2
  constructor
  · rw [envTick_done hg (h.mode ▸ nofun) hd, envAdvance_silence (e := countedLevel k e) h.mode]
  · rw [envTick_level hg (h.mode ▸ nofun), envCurrent_noteEnd h.mode, rampTime_target hstep h1 h2, one_sub_one, h.start,
      f32Mul_zero hf, hneg]
    rfl

end

/-- A falling edge in gate mode is the first tick of the ramp. -/
theorem releasing_of_fall (tr : TR) {k : EnvCtx} {e : EnvBank} (hk : k.gate = false) (hp : e.gprev = true)
    (hgm : k.gmode = true) (hm : e.mode.gated = true) :
    Releasing (stepsOf k.fs (widen e.tEnd)) e.current 1 (envTick tr k e) := by
  rw [envTick_fall tr hk hp hgm hm]
  exact ⟨rfl, rfl, rfl, rfl, rfl⟩

/-- Settles O46: the ramp counts to steps(T_END), whose tick gives +0.0 and enters SILENCE. -/
theorem noteEndReachesSilence : Obligations.NoteEndReachesSilence := by
  unfold Obligations.NoteEndReachesSilence
  intro tr k ks e hk hp hgm hm hf hs hks
  obtain ⟨h1, h2⟩ := stepsOf_range k.fs (widen e.tEnd)
  have hfall := releasing_of_fall tr hk hp hgm (e.mode.gated_iff.2 hm)
  refine ⟨fun hlen => (hfall.run hks (by omega)).mode, fun hlen => ?_⟩
  obtain ⟨init, last, rfl⟩ := (List.eq_nil_or_concat' ks).resolve_left (List.length_pos_iff.1 (hlen ▸ h1))
  rw [List.length_append, List.length_singleton, Nat.add_comm] at hlen
  have hinit := hfall.run (ks := init) (tr := tr) (fun k' hk' => hks k' (List.mem_append_left _ hk')) hlen.le
  rw [hlen] at hinit
  have hrun : envRun tr (k :: (init ++ [last])) e = envTick tr last (envRun tr init (envTick tr k e)) := by
    simp [envRun]
  rw [hrun]
  exact hinit.last (hks last (by simp)) h1 h2 hf hs

end Sys2Proof.Machine
end

section
/-! PROOFS. A decay tick (spec/43_envelope.md R606, R612(b), (c)): the level neither rises nor goes negative. -/

namespace Sys2Proof.Machine

theorem envMin_pos {p : Params} (h : paramsOk p = true) : 0 < val32 p.envMin := by
  obtain ⟨hneg, hmag⟩ : neg32 p.envMin = false ∧ mag32 p.envMin ≠ 0 := by
    simp only [paramsOk, Bool.and_eq_true, Bool.not_eq_true', decide_eq_true_eq] at h
    tauto
  have hf := isFinite32_envMin h
  have hs : p.envMin.getLsbD 31 = false := by
    rw [← msb_eq_getLsbD_31, ← Fmt.neg_eq_msb]
    exact hneg
  refine (val32_nonneg hf hs).lt_of_ne' fun h0 => hmag ?_
  exact (fmt32.isSigned_zero _).1 ((val32_eq_zero hf).1 h0)

/-- A linear decay: the difference lies below its minuend, and the greater of it and the floor is at least the floor. -/
theorem linearDecay_bounds {m cur fac : F32} (hm : isFinite32 m = true) (hm0 : 0 < val32 m) (hc : isFinite32 cur = true)
    (hf : isFinite32 fac = true) (hf0 : 0 ≤ val32 fac) (hle : val32 m ≤ val32 cur) :
    isFinite32 (f32Max (f32Sub cur fac) m) = true ∧ val32 m ≤ val32 (f32Max (f32Sub cur fac) m) ∧
      val32 (f32Max (f32Sub cur fac) m) ≤ val32 cur := by
  obtain ⟨hnf, hnv⟩ := val32_f32Neg hf
  obtain ⟨hd, -, hdc⟩ := (f32Sub_rounds hc hf).between hnf hc (show val32 (f32Neg fac) ≤ _ by linarith)
    (show _ ≤ val32 cur by linarith)
  rcases f32Max_spec hd hm with ⟨e, -⟩ | ⟨e, h⟩ <;> rw [e]
  · exact ⟨hm, le_rfl, hle⟩
  · exact ⟨hd, h, hdc⟩

/-- An exponential decay: the product with a factor from 0 to 1 lies from 0 to the level. -/
theorem exponentialDecay_bounds {cur fac : F32} (hc : isFinite32 cur = true) (hcs : cur.getLsbD 31 = false)
    (hf : isFinite32 fac = true) (hfs : fac.getLsbD 31 = false) (hle : val32 fac ≤ 1) :
    isFinite32 (f32Mul cur fac) = true ∧ (f32Mul cur fac).getLsbD 31 = false ∧ val32 (f32Mul cur fac) ≤ val32 cur := by
  have hc0 := val32_nonneg hc hcs
  have hf0 := val32_nonneg hf hfs
  obtain ⟨hp, -, hpc⟩ := (f32Mul_rounds hc hf).between (lo := F32.zero) rfl hc
    (val32_zero.trans_le (mul_nonneg hc0 hf0)) (mul_le_of_le_one_right hc0 hle)
  obtain ⟨-, -, -, hsp, -⟩ := addSubMulRoundToNearest
  obtain ⟨hsign, -⟩ := hsp cur fac (isNaN32_eq_false_of_finite hc) (isNaN32_eq_false_of_finite hf)
  refine ⟨hp, ?_, hpc⟩
  rw [← msb_eq_getLsbD_31] at hcs hfs ⊢
  exact (hsign (isNaN32_eq_false_of_finite hp)).trans (by rw [hcs, hfs]; rfl)

/-- A decay tick without an edge leaves the decay for NOTE_END alone, and keeps the factor. -/
theorem envTick_decay {tr : TR} {k : EnvCtx} {e : EnvBank} (hg : k.gate = e.gprev) (hm : e.mode = .decay) :
    (envTick tr k e).mode ≠ .silence ∧ (envTick tr k e).factor = e.factor := by
  have hs : e.mode ≠ .silence := hm ▸ nofun
  by_cases hd : e.target.toNat < (satInc e.step).toNat
  · rw [envTick_done hg hs hd]
    cases hh : decayHeld k (countedLevel k e) with
    | true =>
      rw [envAdvance_held (e := countedLevel k e) hm hh]
      exact ⟨hs, rfl⟩
    | false =>
      rw [envAdvance_noteEnd (e := countedLevel k e) hm hh]
      exact ⟨nofun, rfl⟩
  · rw [envTick_counting hg hs hd]
    exact ⟨hs, rfl⟩

/-- Settles O48: rounding keeps the difference and the product between the bounds of their exact values. -/
theorem decayNeverRises : Obligations.DecayNeverRises := by
  unfold Obligations.DecayNeverRises
  intro tr k e hp hg hm hc hcs hf hfs hlin hexp
  obtain ⟨hns, hfac⟩ := envTick_decay (tr := tr) hg hm
  have hcur : (envTick tr k e).current = (envTick tr k e).level := (envTick_current hg).trans (if_neg hns)
  have hlevel := envTick_level (tr := tr) hg (hm ▸ nofun : e.mode ≠ .silence)
  rw [envCurrent_decay hm] at hlevel
  cases hk : k.lin with
  | true =>
    rw [hk, if_pos rfl] at hlevel
    have hpos := envMin_pos hp
    obtain ⟨hlf, hlo, hhi⟩ := linearDecay_bounds (isFinite32_envMin hp) hpos hc hf (val32_nonneg hf hfs) (hlin hk)
    rw [← hlevel] at hlf hlo hhi
    exact ⟨hlf, getLsbD_31_of_val32_pos hlf (hpos.trans_le hlo), hhi, fun _ => hlo, hcur, hfac⟩
  | false =>
    rw [hk, if_neg Bool.false_ne_true] at hlevel
    obtain ⟨hlf, hls, hhi⟩ := exponentialDecay_bounds hc hcs hf hfs (hexp hk)
    rw [← hlevel] at hlf hls hhi
    exact ⟨hlf, hls, hhi, nofun, hcur, hfac⟩

end Sys2Proof.Machine
end

section
/-! PROOFS. The envelope commands VCA, VCF and BASS (spec/43_envelope.md R620, R621, R640). -/

namespace Sys2Proof.Machine

/-! ### A tick keeps the bank's parameters (R130) -/

/-- Banks that a clear makes equal have the same parameters. -/
theorem envRead_of_clearEnv_eq {p : Params} {e e' : EnvBank} (h : clearEnv p e' = clearEnv p e) {r : EnvReg}
    (hr : isEnvState r = false) : envRead e' r = envRead e r := by
  have hc : ∀ b : EnvBank, envRead b r = envRead (clearEnv p b) r := fun b => by
    cases r with
    | tAtt | tAccAtt | tPeak | tDec | tAccDec | tEnd | peakLvl => rfl
    | level | current | estat | step | target | factor | start | peakt => cases hr
  rw [hc e', hc e, h]

theorem clearEnv_envEdge (p : Params) (k : EnvCtx) (e : EnvBank) : clearEnv p (envEdge k e) = clearEnv p e := by
  rcases envEdge_cases k e with ⟨-, -, he⟩ | ⟨-, -, -, -, he⟩ | ⟨-, -, he⟩ <;> rw [he] <;> rfl

theorem clearEnv_envAdvance (p : Params) (tr : TR) (k : EnvCtx) (e : EnvBank) :
    clearEnv p (envAdvance tr k e) = clearEnv p e := by
  unfold envAdvance
  split
  · split <;> rfl
  · rfl
  · split <;> rfl
  · rfl
  · rfl

theorem clearEnv_envCount (p : Params) (tr : TR) (k : EnvCtx) (e : EnvBank) : clearEnv p (envCount tr k e) = clearEnv p e := by
  rcases envCount_spec tr k e with ⟨-, he⟩ | ⟨-, -, he⟩ | ⟨-, -, he⟩ <;> rw [he]
  · rfl
  · exact clearEnv_envAdvance p tr k { e with step := satInc e.step }

theorem clearEnv_envTick (p : Params) (tr : TR) (k : EnvCtx) (e : EnvBank) : clearEnv p (envTick tr k e) = clearEnv p e := by
  rw [envTick, clearEnv_envCount]
  exact clearEnv_envEdge p k e

/-- Settles O49: each command is one tick of its bank, put back in its place. -/
theorem vcaAndVcfCommands : Obligations.VcaAndVcfCommands := by
  unfold Obligations.VcaAndVcfCommands
  intro s
  exact ⟨⟨_, rfl, rfl, fun _ => envRead_of_clearEnv_eq (clearEnv_envTick s.params ..)⟩,
    ⟨_, rfl, rfl, fun _ => envRead_of_clearEnv_eq (clearEnv_envTick s.params ..)⟩,
    illegalFormsRaise s _, illegalFormsRaise s _⟩

/-! ### The ladder frame does not read LAD_FC but through its context (R500, R640) -/

/-- A channel bank with another LAD_FC. -/
def Channel.withFc (ch : Channel) (x : F32) : Channel := { ch with ladFc := x }

theorem upsample_withFc (p : Params) (o : Osf) (ch : Channel) (x : F32) :
    upsample p o (ch.withFc x) = (upsample p o ch).withFc x := rfl

theorem ladderIterate_withFc (p : Params) (co : Coefs) (i : Nat) (ch : Channel) (x : F32) :
    ladderIterate p co i (ch.withFc x) = (ladderIterate p co i ch).withFc x := rfl

theorem ladderSteps_withFc (k : LadderCtx) (n : Nat) (ch : Channel) (x : F32) :
    ladderSteps k n (ch.withFc x) = (ladderSteps k n ch).map (·.withFc x) := by
  induction n with
  | zero => rfl
  | succ n ih =>
    rw [ladderSteps, ladderSteps, ih]
    cases ladderSteps k n ch with
    | none => rfl
    | some ch' =>
      show ladderStep k n (ch'.withFc x) = (ladderStep k n ch').map _
      unfold ladderStep
      cases coefOf k with
      | none => rfl
      | some co => rfl

/-- What a decimation leaves, with another LAD_FC. -/
def Decimated.withFc (d : Decimated) (x : F32) : Decimated := { d with ch := d.ch.withFc x }

theorem decimate_withFc (p : Params) (o : Osf) (ch : Channel) (x : F32) :
    decimate p o (ch.withFc x) = (decimate p o ch).withFc x := by
  cases hf : isFinite32 (decimTap p o (decimHistory p o ch)) with
  | true =>
    rw [decimate_of_finite hf, decimate_of_finite (ch := ch.withFc x) hf]
    rfl
  | false =>
    rw [decimate_of_not_finite hf, decimate_of_not_finite (ch := ch.withFc x) hf]
    rfl

theorem ladderFrame_withFc (k : LadderCtx) {ch : Channel} {d : Decimated} (h : ladderFrame k ch = some d) (x : F32) :
    ladderFrame k (ch.withFc x) = some (d.withFc x) := by
  obtain ⟨ch', hs, rfl⟩ := Option.map_eq_some_iff.1 h
  rw [ladderFrame, upsample_withFc, ladderSteps_withFc, hs]
  exact congrArg some (decimate_withFc ..)

/-! ### BASS (R640) -/

theorem legal_bass_iff (s : State) : s.legal .bass = true ↔ 0 < s.nch := decide_eq_true_iff

/-- The state in which a BASS forms its cutoff: both envelopes have ticked. -/
def bassTicked (s : State) : State := tickEnv Config.tr .vcf (tickEnv Config.tr .vca s)

theorem exec_bass {s : State} {d : Decimated} (hl : s.legal .bass = true)
    (hd : ladderFrame ((bassTicked s).ladderCtx (bassCutoff s.bass (bassTicked s).vcf.level)) (s.chan 0) = some d) :
    exec .bass s = .next (bassFinish (bassCutoff s.bass (bassTicked s).vcf.level) d (bassTicked s)) := by
  have hf : bassFrame Config.tr s = some (bassFinish (bassCutoff s.bass (bassTicked s).vcf.level) d (bassTicked s)) :=
    Option.map_eq_some_iff.2 ⟨d, hd, rfl⟩
  rw [exec, execBass, if_pos hl, hf]

/-- FILT on channel 0 with another LAD_FC puts back what the frame at that cutoff leaves. -/
theorem exec_filt_withFc {s : State} {d : Decimated} {fc : F32} (h0 : 0 < s.nch)
    (hd : ladderFrame (s.ladderCtx fc) (s.chan 0) = some d) :
    exec (.filt 0) (s.setChan 0 ((s.chan 0).withFc fc)) = .next (finishDecim 0 (d.withFc fc) s) := by
  have hch : (s.setChan 0 ((s.chan 0).withFc fc)).chan 0 = (s.chan 0).withFc fc := State.chan_setChan_self _ _ _ h0
  have hl : (s.setChan 0 ((s.chan 0).withFc fc)).legal (.filt 0) = true :=
    (legal_filt_iff ..).2 ((State.nch_setChan ..).symm ▸ h0)
  rw [exec_filt _ _ hl (d := d.withFc fc)]
  · exact congrArg _ (finishDecim_setChan ..)
  · rw [State.ladderCtx_setChan]
    show ladderFrame (s.ladderCtx ((s.setChan 0 ((s.chan 0).withFc fc)).chan 0).ladFc)
      ((s.setChan 0 ((s.chan 0).withFc fc)).chan 0) = _
    rw [hch]
    exact ladderFrame_withFc _ hd fc

/-- The end of a BASS frame is that of a FILT with the cutoff in LAD_FC, with LAD_FC put back. -/
theorem bassFinish_eq {s : State} {d : Decimated} {fc : F32} (h0 : 0 < s.nch) (hfc : d.ch.ladFc = (s.chan 0).ladFc) :
    bassFinish fc d s = { s with
      chans := s.chans.set 0 (((finishDecim 0 (d.withFc fc) s).chan 0).withFc (s.chan 0).ladFc)
      status := (finishDecim 0 (d.withFc fc) s).status
      evtInfo := (finishDecim 0 (d.withFc fc) s).evtInfo
      evtData := (finishDecim 0 (d.withFc fc) s).evtData
      bass := { s.bass with
        fcEff := fc
        bassOut := f32Mul ((finishDecim 0 (d.withFc fc) s).chan 0).ladOut s.vca.level } } := by
  have hback : (d.withFc fc).ch.withFc (s.chan 0).ladFc = d.ch := hfc ▸ rfl
  rw [chan_finishDecim_self h0, hback]
  obtain ⟨ch, bad⟩ := d
  cases bad <;> rfl

/-- Settles O50: BASS is the FILT of channel 0 in the ticked state, which reads LAD_FC through the cutoff alone. -/
theorem bassCommand : Obligations.BassCommand := by
  unfold Obligations.BassCommand
  intro s hl hg
  have h0 : 0 < (bassTicked s).nch := (legal_bass_iff s).1 hl
  obtain ⟨ch, hd⟩ := ladderFrame_some (bassTicked s) (bassCutoff s.bass (bassTicked s).vcf.level) (s.chan 0) hg
  obtain ⟨-, hfc, -⟩ := ladderFrame_inputs hd
  exact ⟨_, bassTicked s, _, _, rfl, rfl, ⟨exec_filt_withFc h0 hd, exec_bass hl hd, bassFinish_eq h0 hfc⟩,
    illegalFormsRaise s _⟩

/-! ### The clamp (R640) -/

theorem f32Lt_eq_decide {a b : F32} (ha : ¬ IsNaN a) (hb : ¬ IsNaN b) : f32Lt a b = decide (key32 a < key32 b) := by
  rw [IsNaN, Bool.not_eq_true] at ha hb
  simp [f32Lt, ha, hb]

theorem f32Le_eq_decide {a b : F32} (ha : ¬ IsNaN a) (hb : ¬ IsNaN b) : f32Le a b = decide (key32 a ≤ key32 b) := by
  rw [IsNaN, Bool.not_eq_true] at ha hb
  simp [f32Le, ha, hb]

/-- The greater of two numbers is at least the second. -/
theorem f32Max_ge_right {a b : F32} (ha : ¬ IsNaN a) (hb : ¬ IsNaN b) :
    ¬ IsNaN (f32Max a b) ∧ key32 b ≤ key32 (f32Max a b) := by
  rw [f32Max, f32Lt_eq_decide ha hb]
  by_cases h : key32 a < key32 b
  · rw [if_pos (decide_eq_true h)]
    exact ⟨hb, le_rfl⟩
  · rw [if_neg (by simpa using h)]
    exact ⟨ha, not_lt.1 h⟩

/-- The lesser of two numbers, by their order. -/
theorem f32Min_spec {a b : F32} (ha : ¬ IsNaN a) (hb : ¬ IsNaN b) :
    (key32 b < key32 a ∧ f32Min a b = b) ∨ (key32 a ≤ key32 b ∧ f32Min a b = a) := by
  rw [f32Min, f32Lt_eq_decide hb ha]
  by_cases h : key32 b < key32 a
  · exact .inl ⟨h, if_pos (decide_eq_true h)⟩
  · exact .inr ⟨not_lt.1 h, if_neg (by simpa using h)⟩

theorem bassClamp_spec {b : BassRegs} (hmin : ¬ IsNaN b.cutMin) (hmax : ¬ IsNaN b.cutMax) (fc : F32) :
    (f32Le b.cutMin b.cutMax = true → f32Le b.cutMin (bassClamp b fc) = true ∧ f32Le (bassClamp b fc) b.cutMax = true) ∧
    (f32Lt b.cutMax b.cutMin = true → bassClamp b fc = b.cutMax) := by
  have hx : ¬ IsNaN (if isNaN32 fc then b.cutMin else fc) := by
    split
    · exact hmin
    next h => exact h
  obtain ⟨hn, hge⟩ := f32Max_ge_right hx hmin
  rw [f32Le_eq_decide hmin hmax, f32Lt_eq_decide hmax hmin, decide_eq_true_eq, decide_eq_true_eq, bassClamp]
  rcases f32Min_spec hn hmax with ⟨h, e⟩ | ⟨h, e⟩ <;> rw [e]
  · rw [f32Le_eq_decide hmin hmax, f32Le_eq_decide hmax hmax]
    exact ⟨fun hle => ⟨decide_eq_true hle, decide_eq_true le_rfl⟩, fun _ => rfl⟩
  · rw [f32Le_eq_decide hmin hn, f32Le_eq_decide hn hmax]
    exact ⟨fun _ => ⟨decide_eq_true hge, decide_eq_true h⟩, fun hlt => absurd (hge.trans h) hlt.not_ge⟩

/-- A BASS that completes leaves the clamped cutoff in FC_EFF. -/
theorem fcEff_of_exec_bass {s t : State} (hl : s.legal .bass = true) (h : exec .bass s = .next t) :
    t.bass.fcEff = bassClamp s.bass (bassCutoffRaw s.bass (bassTicked s).vcf.level) := by
  rw [exec, execBass, if_pos hl] at h
  split at h
  next u hu =>
    cases h
    obtain ⟨d, -, rfl⟩ := Option.map_eq_some_iff.1 hu
    rfl
  next => cases h

/-- Settles O51: FC_EFF is the clamp's value, in either order of its bounds. -/
theorem bassCutoffIsClamped : Obligations.BassCutoffIsClamped := by
  unfold Obligations.BassCutoffIsClamped
  intro s t hl ht hmin hmax
  rw [fcEff_of_exec_bass hl ht]
  exact bassClamp_spec hmin hmax _

end Sys2Proof.Machine
end

section
/-! PROOFS. The command DYN (spec/44_dynamics.md R700 to R708, R720): what a tick computes, its failure handling, and its
frame. -/

namespace Sys2Proof.Machine

/-! ### The literals of R700 and R705 -/

theorem f64OfNat_1 : f64OfNat 1 = 0x3FF0000000000000#64 := by decide
theorem f64OfNat_20 : f64OfNat 20 = 0x4034000000000000#64 := by decide
theorem f64OfNat_1000 : f64OfNat 1000 = 0x408F400000000000#64 := by decide
theorem f64Neg_one : f64Neg 0x3FF0000000000000#64 = 0xBFF0000000000000#64 := by decide

/-! ### The parts of a tick (R706, R708) -/

/-- Both components of the hysteresis of R706 as conditions on agreement and on the window. -/
theorem hysteresis_eq (n : Nat) (desired mode : DynMode) (hcnt : Word) :
    hysteresis n desired mode hcnt =
      (if desired ≠ mode ∧ n < (satInc hcnt).toNat then desired else mode,
        if desired ≠ mode ∧ ¬ n < (satInc hcnt).toNat then satInc hcnt else 0) := by
  rcases hysteresis_spec n desired mode hcnt with ⟨hd, e⟩ | ⟨hd, hn, e⟩ | ⟨hd, hn, e⟩ <;> rw [e]
  · simp [hd]
  · simp [hd, hn]
  · simp [hd, hn.not_gt]

/-- The pair popped last from `q` by R708, when a pair is popped at all: the one before the last `depth`. -/
theorem drainQueue_none (depth : Nat) (q : List Pair) :
    drainQueue depth q none =
      (if q.length - depth = 0 then none else some (q.getD (q.length - depth - 1) ⟨F32.zero, F32.zero⟩),
        q.drop (q.length - depth)) := by
  rw [drainQueue_spec]
  by_cases h : q.length ≤ depth
  · rw [if_pos h, if_pos (Nat.sub_eq_zero_of_le h)]
  · have hlt : q.length - depth - 1 < q.length := by omega
    rw [if_neg h, if_neg (by omega), List.getD_eq_getElem _ _ hlt, List.getElem?_eq_getElem hlt]

/-- What an output tap emits: the tap's component of the popped pair times the gain, and silence without a pair (R708). -/
def emitted (popped : Option Pair) (tap : Pair → F32) (gain : F32) : F32 :=
  popped.elim F32.zero fun x => f32Mul (tap x) gain

theorem emitted_ite (c : Prop) [Decidable c] (x : Pair) (tap : Pair → F32) (gain : F32) :
    emitted (if c then none else some x) tap gain = if c then F32.zero else f32Mul (tap x) gain := by
  split <;> rfl

/-- A tick, from the results of its parts in the order of R702. -/
theorem dynCompute_eq {tr : TR} {k : DynCtx} {d : DynUnit} {peak f gain : F32} {mode : DynMode} {hcnt : Word}
    {popped : Option Pair} {queue : List Pair}
    (hpeak : followPeak (timeCoef tr k.p k.fs d.taMs) (timeCoef tr k.p k.fs d.trMs) (f32Abs (detectorInput k.sc d)) d.peak =
      peak)
    (hf : staticCurve tr k.p d.ltDb peak = f)
    (hmode : hysteresis (hystCount k.p k.fs) (desiredMode f d.gain d.mode) d.mode d.hcnt = (mode, hcnt))
    (hgain : smoothGain (if mode = .attack then timeCoef tr k.p k.fs d.taMs else timeCoef tr k.p k.fs d.trMs) d.gain f = gain)
    (hqueue : drainQueue d.depth.toNat (d.queue ++ [⟨d.inL, d.inR⟩]) none = (popped, queue)) :
    dynCompute tr k d = { d with
      peak := peak, ctl := f, mode := mode, hcnt := hcnt, gain := gain, queue := queue
      outL := emitted popped Pair.l gain, outR := emitted popped Pair.r gain } := by
  subst hpeak hf hgain
  simp only [dynCompute, hmode, hqueue]
  cases popped <;> rfl

/-! ### The command -/

/-- With finite outputs the tick stands. -/
theorem exec_dyn_of_finite {s : State} {u : DynUnit} (hu : dynCompute Config.tr ⟨s.params, cfgSc s.cfg, s.fsHost⟩ s.dyn = u)
    (hL : isFinite32 u.outL = true) (hR : isFinite32 u.outR = true) : exec .dyn s = .next { s with dyn := u } := by
  rcases dynTick_cases Config.tr s u hu.symm with ⟨-, -, e⟩ | ⟨hf | hf, -⟩
  · exact congrArg _ e
  · exact absurd hL (ne_true_of_eq_false hf)
  · exact absurd hR (ne_true_of_eq_false hf)

/-- With an output that is not finite the hard recovery runs on the tick. -/
theorem exec_dyn_of_not_finite {s : State} {u : DynUnit} (hu : dynCompute Config.tr ⟨s.params, cfgSc s.cfg, s.fsHost⟩ s.dyn = u)
    (h : ¬ (isFinite32 u.outL = true ∧ isFinite32 u.outR = true)) :
    exec .dyn s = .next (raiseEvent .dynrst 0 0 0 { s with dyn := dynRecover u }) := by
  rcases dynTick_cases Config.tr s u hu.symm with ⟨hL, hR, -⟩ | ⟨-, e⟩
  · exact absurd ⟨hL, hR⟩ h
  · exact congrArg _ e

/-- Settles O52: each quantity of the pseudocode is the result of one part of the tick. -/
theorem dynCommand : Obligations.DynCommand := by
  unfold Obligations.DynCommand
  rw [f64OfNat_1, f64OfNat_20, f64OfNat_1000, f64Neg_one]
  intro s d tr ts coef hystN xm ax peak dB lt G f desired cnt mode hcnt k gain q n oL oR
  have hpeak : followPeak (coef d.taMs) (coef d.trMs) ax d.peak = peak := rfl
  have hf : staticCurve tr s.params d.ltDb peak = f := rfl
  have hmode : hysteresis hystN desired d.mode d.hcnt = (mode, hcnt) := hysteresis_eq ..
  have hgain : smoothGain (if mode = .attack then coef d.taMs else coef d.trMs) d.gain f = gain := rfl
  have hqueue : drainQueue d.depth.toNat q none = (if n = 0 then none else some _, q.drop n) := drainQueue_none ..
  have hu : dynCompute tr ⟨s.params, cfgSc s.cfg, s.fsHost⟩ d = { d with
      peak := peak, gain := gain, ctl := f, mode := mode, hcnt := hcnt, queue := q.drop n, outL := oL, outR := oR } := by
    rw [dynCompute_eq (k := ⟨s.params, cfgSc s.cfg, s.fsHost⟩) hpeak hf hmode hgain hqueue, emitted_ite, emitted_ite]
  exact ⟨fun ⟨hL, hR⟩ => exec_dyn_of_finite hu hL hR, fun h => exec_dyn_of_not_finite hu h, illegalFormsRaise s _⟩

/-! ### The hard recovery (R720) -/

theorem clearDyn_dynCompute (tr : TR) (k : DynCtx) (d : DynUnit) : clearDyn (dynCompute tr k d) = clearDyn d := rfl

theorem clearDyn_dynRecover (d : DynUnit) : clearDyn (dynRecover d) = clearDyn d := rfl

/-- Dynamics units that a clear makes equal have the same inputs and parameters. -/
theorem readReg_of_clearDyn_eq {s : State} {u : DynUnit} (h : clearDyn u = clearDyn s.dyn) {r : Reg}
    (hr : writtenBy .dyn r = false) : readReg { s with dyn := u } r = readReg s r := by
  have hc (d : DynUnit) : readReg { s with dyn := d } r = readReg { s with dyn := clearDyn d } r := by
    cases r with
    | dynOutL | dynOutR | dynPeak | dynGain | dynCtl | dynStat | dynHcnt | dynOcc => cases hr
    | _ => rfl
  rw [hc u, h, ← hc s.dyn]

/-- Settles O53: the tick stands or is recovered by its outputs alone, and either keeps the unit's inputs and parameters. -/
theorem dynHardRecovery : Obligations.DynHardRecovery := by
  unfold Obligations.DynHardRecovery
  intro s d
  by_cases h : isFinite32 d.outL = true ∧ isFinite32 d.outR = true
  · obtain ⟨hL, hR⟩ := h
    refine ⟨_, exec_dyn_of_finite rfl hL hR, hL, hR, fun _ => ⟨rfl, rfl, rfl, rfl⟩, fun hf => ?_,
      fun r hr _ => readReg_of_clearDyn_eq (clearDyn_dynCompute ..) hr, ⟨rfl, rfl, rfl, rfl, rfl⟩, rfl⟩
    rcases hf with hf | hf
    · exact absurd hL (ne_true_of_eq_false hf)
    · exact absurd hR (ne_true_of_eq_false hf)
  · exact ⟨_, exec_dyn_of_not_finite rfl h, rfl, rfl, fun hf => absurd hf h,
      fun _ => ⟨⟨rfl, rfl, rfl⟩, rfl, rfl, rfl, rfl, rfl, rfl, rfl, rfl⟩,
      fun r hr he => (readReg_raiseEvent _ _ _ _ _ he).trans (readReg_of_clearDyn_eq
        ((clearDyn_dynRecover _).trans (clearDyn_dynCompute ..)) hr), ⟨rfl, rfl, rfl, rfl, rfl⟩, rfl⟩

end Sys2Proof.Machine
end

section
/-! PROOFS. The hysteresis of the dynamics unit (spec/44_dynamics.md R706, R721(b)): what a tick does to its mode and counter, and
which steps do not touch them. -/

namespace Sys2Proof.Machine

/-! ### One tick -/

theorem exec_dyn_hysteresis {s t : State} (h : exec .dyn s = .next t) :
    ∃ desired, hysteresis (hystCount s.params s.fsHost) desired s.dyn.mode s.dyn.hcnt = (t.dyn.mode, t.dyn.hcnt) := by
  cases h
  rcases dynTick_cases Config.tr s _ rfl with ⟨-, -, e⟩ | ⟨-, e⟩ <;> rw [e] <;> exact ⟨_, rfl⟩

/-- A tick counts by at most 1, and flips the mode only past the window, with the counter cleared. -/
theorem exec_dyn_counts {s t : State} (h : exec .dyn s = .next t) :
    t.dyn.hcnt.toNat ≤ s.dyn.hcnt.toNat + 1 ∧
    (t.dyn.mode ≠ s.dyn.mode → hystCount s.params s.fsHost < s.dyn.hcnt.toNat + 1 ∧ t.dyn.hcnt = 0) := by
  obtain ⟨desired, hh⟩ := exec_dyn_hysteresis h
  have hsat := satInc_toNat s.dyn.hcnt
  rcases hysteresis_spec (hystCount s.params s.fsHost) desired s.dyn.mode s.dyn.hcnt with
    ⟨-, e⟩ | ⟨-, hn, e⟩ | ⟨-, -, e⟩ <;> obtain ⟨hm, hc⟩ := Prod.mk.inj (hh.symm.trans e) <;> rw [hm, hc]
  · exact ⟨Nat.zero_le _, fun hne => absurd rfl hne⟩
  · exact ⟨Nat.zero_le _, fun _ => ⟨by omega, rfl⟩⟩
  · exact ⟨by omega, fun hne => absurd rfl hne⟩

/-! ### What leaves the dynamics unit alone (R831) -/

theorem tickEnv_dyn (tr : TR) (b : Bank) (s : State) : (tickEnv tr b s).dyn = s.dyn := State.setEnv_dyn ..

theorem dyn_of_exec_onChannel {c : BitVec 4} {i : Instr} {s t : State} (hc : OnChannel c i) (hl : s.legal i = true)
    (h : exec i s = .next t) : t.dyn = s.dyn := by
  rw [exec_onChannel hc hl] at h
  cases hd : channelResult s.params s.cfg s.fsHost (s.chan c.toNat) i with
  | none =>
    rw [hd] at h
    cases h
  | some d =>
    rw [hd] at h
    cases h
    exact finishDecim_dyn ..

theorem dyn_of_bassFrame {tr : TR} {s t : State} (h : bassFrame tr s = some t) : t.dyn = s.dyn := by
  obtain ⟨d, -, rfl⟩ := Option.map_eq_some_iff.1 h
  have hs : (tickEnv tr .vcf (tickEnv tr .vca s)).dyn = s.dyn := by rw [tickEnv_dyn, tickEnv_dyn]
  exact (finishDecim_dyn ..).trans hs

/-- DYN, RESET and CLRST are the only commands that change the dynamics unit. -/
theorem dyn_of_exec {i : Instr} {s t : State} (hd : i ≠ .dyn) (hr : i ≠ .reset) (hc : i ≠ .clrst) (h : exec i s = .next t) :
    t.dyn = s.dyn := by
  cases hl : s.legal i with
  | false =>
    rw [exec_illegal i s hl] at h
    cases h
    rfl
  | true =>
    cases i with
    | dyn => exact absurd rfl hd
    | reset => exact absurd rfl hr
    | clrst => exact absurd rfl hc
    | nop | tanh =>
      cases h
      rfl
    | vca | vcf =>
      cases h
      exact tickEnv_dyn ..
    | ups c => exact dyn_of_exec_onChannel (c := c) ⟨0, .inl rfl⟩ hl h
    | lstep c k => exact dyn_of_exec_onChannel (c := c) ⟨k, .inr (.inl rfl)⟩ hl h
    | dec c => exact dyn_of_exec_onChannel (c := c) ⟨0, .inr (.inr (.inl rfl))⟩ hl h
    | filt c => exact dyn_of_exec_onChannel (c := c) ⟨0, .inr (.inr (.inr rfl))⟩ hl h
    | bass =>
      simp only [exec, execBass, hl, if_true] at h
      split at h <;> cases h
      next hb => exact dyn_of_bassFrame hb

/-- A write to CMD that changes the dynamics unit carries the word of DYN, RESET or CLRST. -/
theorem dyn_of_command {w : Word} {s t : State} (h : command w s = .next t) :
    t.dyn = s.dyn ∨ w = encode .dyn ∨ w = encode .reset ∨ w = encode .clrst := by
  unfold command at h
  split at h
  next i hi =>
    obtain rfl := encode_of_decode hi
    by_cases hd : i = .dyn
    · exact .inr (.inl (congrArg encode hd))
    by_cases hr : i = .reset
    · exact .inr (.inr (.inl (congrArg encode hr)))
    by_cases hc : i = .clrst
    · exact .inr (.inr (.inr (congrArg encode hc)))
    exact .inl (dyn_of_exec hd hr hc h)
  next =>
    cases h
    exact .inl rfl

/-- The hysteresis state is the same. -/
def SameHysteresis (s t : State) : Prop := t.dyn.mode = s.dyn.mode ∧ t.dyn.hcnt = s.dyn.hcnt

theorem sameHysteresis_busAccess {a : Access} {s t : State} (h : busAccess a s = .next t) :
    SameHysteresis s t ∨ IsCommand a .dyn ∨ IsCommand a .reset ∨ IsCommand a .clrst := by
  rcases busAccess_cases h with
    ⟨_, -, -, rfl⟩ | ⟨_, _, -, -, rfl⟩ | ⟨_, _, _, -, -, rfl⟩ | ⟨addr, w, rfl, h4, hreg, hc⟩ | ⟨addr, v, rfl, -, -, rfl⟩
  · exact .inl ⟨rfl, rfl⟩
  · exact .inl ⟨rfl, rfl⟩
  · exact .inl ⟨rfl, rfl⟩
  · have ho : offsetOf addr = 0x000 := by
      have hoff := (regOffset_regAt (off := offsetOf addr) (by unfold offsetOf; omega)).resolve_left (hreg ▸ nofun)
      rw [hreg] at hoff
      exact (Option.some.inj hoff).symm
    rcases dyn_of_command hc with hd | rfl | rfl | rfl
    · exact .inl ⟨congrArg DynUnit.mode hd, congrArg DynUnit.hcnt hd⟩
    · exact .inr (.inl ⟨addr, ho, rfl⟩)
    · exact .inr (.inr (.inl ⟨addr, ho, rfl⟩))
    · exact .inr (.inr (.inr ⟨addr, ho, rfl⟩))
  · exact .inl (writeReg_hysteresis ..)

/-- A step that moves the hysteresis lowers RST_N or serves one of three commands. -/
theorem sameHysteresis_step {s t : State} (h : step s = .next t) :
    SameHysteresis s t ∨ (∃ rest, s.inputs = .rstLow :: rest) ∨
    ∃ a rest, s.rstN = true ∧ s.inputs = .access a :: rest ∧
      (IsCommand a .dyn ∨ IsCommand a .reset ∨ IsCommand a .clrst) := by
  rcases step_cases h with ⟨-, rfl⟩ | ⟨rest, hin, -⟩ | ⟨_, -, rfl⟩ | ⟨a, _, -, -, rfl⟩ | ⟨a, rest, hin, hr, ha⟩
  · exact .inl ⟨rfl, rfl⟩
  · exact .inr (.inl ⟨rest, hin⟩)
  · exact .inl ⟨rfl, rfl⟩
  · cases a <;> exact .inl ⟨rfl, rfl⟩
  · exact (sameHysteresis_busAccess ha).imp_right fun hc => .inr ⟨a, rest, hr, hin, hc⟩

/-! ### A run -/

/-- In a run of at most HYST_N ticks from a counter of 0 the counter is never past the number of ticks, so no tick flips. -/
theorem hysteresis_run {run : Nat → State} {n : Nat} (h0 : (run 0).dyn.hcnt = 0)
    (hrun : ∀ i, i < n → ∃ u : State, SameHysteresis (run i) u ∧ n ≤ hystCount u.params u.fsHost ∧
      exec .dyn u = .next (run (i + 1))) {i : Nat} (hi : i ≤ n) :
    (run i).dyn.mode = (run 0).dyn.mode ∧ (run i).dyn.hcnt.toNat ≤ i := by
  induction i with
  | zero => exact ⟨rfl, (congrArg BitVec.toNat h0).le⟩
  | succ i ih =>
    obtain ⟨hmode, hcnt⟩ := ih (by omega)
    obtain ⟨u, ⟨hum, huc⟩, hn, hu⟩ := hrun i hi
    obtain ⟨hcount, hflip⟩ := exec_dyn_counts hu
    rw [huc] at hcount hflip
    refine ⟨?_, by omega⟩
    by_contra hne
    have := (hflip (by rwa [hum, hmode])).1
    omega

/-- Settles O54: a tick counts or flips by `hysteresis_spec`, no other step but three moves the counter, and in a run it counts the
ticks at most. -/
theorem modeFlipsAreSpaced : Obligations.ModeFlipsAreSpaced := by
  unfold Obligations.ModeFlipsAreSpaced
  refine ⟨fun s t => exec_dyn_counts, fun s t ht hne => ?_, fun run n h0 hrun => ?_⟩
  · exact (sameHysteresis_step ht).resolve_left fun ⟨hm, hc⟩ => hne.elim (absurd hm) (absurd hc)
  · refine (hysteresis_run h0 (fun i hi => ?_) le_rfl).1
    obtain ⟨u, hc, hm, hu⟩ := hrun i hi
    exact ⟨u, ⟨hm, hc⟩, hu⟩

end Sys2Proof.Machine
end

section
/-! PROOFS. The lookahead of the dynamics unit (spec/44_dynamics.md R708, R720). -/

namespace Sys2Proof.Machine

/-! ### One tick -/

/-- The queue and the outputs of a tick, from what R708 pops. -/
theorem dynCompute_outputs (tr : TR) (k : DynCtx) {d : DynUnit} {popped : Option Pair} {queue : List Pair}
    (h : drainQueue d.depth.toNat (d.queue ++ [⟨d.inL, d.inR⟩]) none = (popped, queue)) :
    (dynCompute tr k d).queue = queue ∧
    (dynCompute tr k d).outL = emitted popped Pair.l (dynCompute tr k d).gain ∧
    (dynCompute tr k d).outR = emitted popped Pair.r (dynCompute tr k d).gain := by
  refine ⟨congrArg Prod.snd h, ?_⟩
  simp only [dynCompute, h]
  cases popped <;> exact ⟨rfl, rfl⟩

/-- The hard recovery has run in the tick that led to `t`. -/
def Recovered (t : State) : Prop :=
  t.dyn.outL = F32.zero ∧ t.dyn.outR = F32.zero ∧ t.dyn.gain = F32.one ∧ t.evtInfo = 0x00000005#32

/-- A tick drains the queue with the input pair at its tail, and emits what it popped last or recovers. -/
theorem dynTick_outputs (tr : TR) {s : State} {popped : Option Pair} {queue : List Pair}
    (h : drainQueue s.dyn.depth.toNat (s.dyn.queue ++ [⟨s.dyn.inL, s.dyn.inR⟩]) none = (popped, queue)) :
    (dynTick tr s).dyn.depth = s.dyn.depth ∧ (dynTick tr s).dyn.queue = queue ∧
    (((dynTick tr s).dyn.outL = emitted popped Pair.l (dynTick tr s).dyn.gain ∧
      (dynTick tr s).dyn.outR = emitted popped Pair.r (dynTick tr s).dyn.gain) ∨ Recovered (dynTick tr s)) := by
  obtain ⟨hq, hout⟩ := dynCompute_outputs tr ⟨s.params, cfgSc s.cfg, s.fsHost⟩ h
  rcases dynTick_cases tr s _ rfl with ⟨-, -, e⟩ | ⟨-, e⟩ <;> rw [e]
  · exact ⟨rfl, hq, .inl hout⟩
  · exact ⟨rfl, hq, .inr ⟨rfl, rfl, rfl, rfl⟩⟩

/-! ### A run from an empty queue (R708(a)) -/

/-- The state after one DYN for each pair. -/
def fedState (xs : List Pair) (s : State) : State := xs.foldl (fun s x => dynTick Config.tr (feed x s)) s

theorem runFed_eq (xs : List Pair) (s : State) : runFed xs s = .next (fedState xs s) := by
  induction xs generalizing s with
  | nil => rfl
  | cons x xs ih => exact ih (dynTick Config.tr (feed x s))

theorem fedState_concat (xs : List Pair) (x : Pair) (s : State) :
    fedState (xs ++ [x]) s = dynTick Config.tr (feed x (fedState xs s)) := by
  rw [fedState, List.foldl_concat]
  rfl

/-- The pair that is `depth` places before the last, when there is one. -/
def delayed (depth : Nat) (xs : List Pair) : Option Pair := if xs.length ≤ depth then none else xs[xs.length - (depth + 1)]?

/-- Of the last `depth + 1` pairs pushed R708 pops the first, and of fewer pairs none. -/
theorem drainQueue_rtake (depth : Nat) (xs : List Pair) :
    drainQueue depth (xs.rtake (depth + 1)) none = (delayed depth xs, xs.rtake depth) := by
  rw [drainQueue_spec, delayed, List.rtake, List.rtake, List.length_drop, List.drop_drop, List.getElem?_drop]
  by_cases h : xs.length ≤ depth
  · rw [if_pos h, if_pos (by omega)]
    congr 2
    omega
  · rw [if_neg h, if_neg (by omega)]
    congr 2 <;> omega

/-- From an empty queue, one more tick emits the pair `depth` ticks back or recovers, when the queue held the last `depth`
pairs. -/
theorem fedState_tick {xs : List Pair} {s : State} (hd : (fedState xs s).dyn.depth = s.dyn.depth)
    (hq : (fedState xs s).dyn.queue = xs.rtake s.dyn.depth.toNat) (x : Pair) {t : State} (ht : fedState (xs ++ [x]) s = t) :
    t.dyn.depth = s.dyn.depth ∧ t.dyn.queue = (xs ++ [x]).rtake s.dyn.depth.toNat ∧
    ((t.dyn.outL = emitted (delayed s.dyn.depth.toNat (xs ++ [x])) Pair.l t.dyn.gain ∧
      t.dyn.outR = emitted (delayed s.dyn.depth.toNat (xs ++ [x])) Pair.r t.dyn.gain) ∨ Recovered t) := by
  have hdrain := drainQueue_rtake s.dyn.depth.toNat (xs ++ [x])
  rw [List.rtake_concat_succ, ← hq] at hdrain
  nth_rewrite 1 [← hd] at hdrain
  subst ht
  rw [fedState_concat]
  obtain ⟨hdepth, hrest⟩ := dynTick_outputs Config.tr (s := feed x (fedState xs s)) hdrain
  exact ⟨hdepth.trans hd, hrest⟩

/-- From an empty queue, the queue holds the last `depth` pairs. -/
theorem fedState_queue (xs : List Pair) {s : State} (h : s.dyn.queue = []) :
    (fedState xs s).dyn.depth = s.dyn.depth ∧ (fedState xs s).dyn.queue = xs.rtake s.dyn.depth.toNat := by
  induction xs using List.reverseRecOn with
  | nil => exact ⟨rfl, h.trans (List.rtake_nil _).symm⟩
  | append_singleton xs x ih =>
    obtain ⟨hd, hq⟩ := ih
    obtain ⟨hd', hq', -⟩ := fedState_tick hd hq x rfl
    exact ⟨hd', hq'⟩

/-- Settles O55: the queue holds the last pairs of the run, and `delayed` is the pair that leaves it. -/
theorem lookaheadDelaysByItsDepth : Obligations.LookaheadDelaysByItsDepth := by
  unfold Obligations.LookaheadDelaysByItsDepth
  intro s xs x hempty
  obtain ⟨hd, hq⟩ := fedState_queue xs hempty
  obtain ⟨-, hqueue, hout⟩ := fedState_tick hd hq x rfl
  refine ⟨_, runFed_eq .., fun hlt => ?_, fun hle y hy => ?_, ?_⟩
  · rw [delayed, if_pos (by simpa using hlt)] at hout
    exact hout.elim id fun ⟨hL, hR, _⟩ => ⟨hL, hR⟩
  · rw [delayed, if_neg (by simpa using hle), List.length_append, List.length_singleton, Nat.add_sub_add_right, hy] at hout
    exact hout
  · rw [hqueue, List.rtake, List.length_drop, List.length_append, List.length_singleton]
    omega

end Sys2Proof.Machine
end

section
/-! PROOFS. The static curve and the time coefficients at their corner cases (spec/44_dynamics.md R700, R702, R705). -/

namespace Sys2Proof.Machine

/-! ### The static curve (R705) -/

/-- The dB value the static curve compares with the threshold. -/
def peakDb (tr : TR) (p : Params) (peak : F32) : F64 :=
  f64Mul (f64OfNat 20) (trLog10 tr (f64Div (widen peak) p.dynRef))

theorem staticCurve_of_not_above {tr : TR} {p : Params} {lt peak : F32} (h : f64Lt (widen lt) (peakDb tr p peak) = false) :
    staticCurve tr p lt peak = F32.one := by
  rw [peakDb, f64OfNat_20] at h
  have h0 : f64Div 0 0x4034000000000000#64 = 0 := by decide
  simp only [staticCurve, h, Bool.false_eq_true, if_false, h0]
  exact (by decide : narrow32 0x3FF0000000000000#64 = F32.one)

theorem f64Lt_negInf_right (a : F64) : f64Lt a 0xFFF0000000000000#64 = false := by
  obtain ⟨-, -, hlt, -⟩ := comparisonsFollowTheRealOrder
  obtain ⟨-, -, -, -, -, hinf⟩ := hlt a a
  exact hinf

/-- The dB value of a zero peak is −∞. -/
theorem peakDb_zero (tr : TR) {p : Params} (hp : p.dynRef = 0x4014000000000000#64) :
    peakDb tr p F32.zero = 0xFFF0000000000000#64 := by
  have hq : f64Div (widen F32.zero) 0x4014000000000000#64 = 0 := by decide
  have hl : trLog10 tr 0 = 0xFFF0000000000000#64 := if_pos rfl
  rw [peakDb, hp, hq, hl]
  decide

/-- The dB value of a NaN peak is a NaN. -/
theorem peakDb_nan (tr : TR) (p : Params) {peak : F32} (h : IsNaN peak) : isNaN64 (peakDb tr p peak) = true := by
  have hx : isNaN64 (f64Div (widen peak) p.dynRef) = true := f64Div_nan (.inl ((isNaN64_widen peak).trans h))
  refine f64Mul_nan (.inr ?_)
  rw [trLog10, if_pos hx]
  split
  next h0 => exact absurd (h0 ▸ hx) (by decide)
  next => exact isNaN64_nan64 ..

/-- Settles O57: a zero peak is at −∞ dB and a NaN peak at a NaN, and neither is above a threshold. -/
theorem staticCurveIsUnityBelowThreshold : Obligations.StaticCurveIsUnityBelowThreshold := by
  unfold Obligations.StaticCurveIsUnityBelowThreshold
  intro tr p lt peak
  refine ⟨staticCurve_of_not_above, ?_, fun h => staticCurve_of_not_above ?_⟩
  · rintro hp rfl
    exact staticCurve_of_not_above (by rw [peakDb_zero tr hp, f64Lt_negInf_right])
  · simp [f64Lt, peakDb_nan tr p h]

/-! ### The time coefficients (R700) -/

/-- A negative value has its sign bit set and is no zero. -/
theorem msb_of_val64_neg {x : F64} (hx : isFinite64 x = true) (h : val64 x < 0) : x.msb = true ∧ ¬ IsSigned 0 x := by
  rw [show val64 x = _ from fmt64.val_eq ((fmt64.finite_iff x).1 hx)] at h
  rw [← Fmt.neg_eq_msb, fmt64.isSigned_zero]
  refine ⟨?_, fun h0 => ?_⟩
  · by_contra hs
    rw [(Bool.not_eq_true _).mp hs, sgn, if_neg Bool.false_ne_true, one_mul] at h
    exact absurd (magVal_nonneg _) h.not_ge
  · rw [h0, magVal_zero, mul_zero] at h
    exact lt_irrefl 0 h

/-- The range of FS_HOST (R115) holds finite values alone. -/
theorem fsHost_range {fs : F32} (h1 : f32Le Config.fsMin fs = true) (h2 : f32Le fs Config.fsMax = true) :
    isFinite32 fs = true ∧ 44100 ≤ val32 fs ∧ val32 fs ≤ 768000 := by
  have hf : isFinite32 fs = true := by
    have k1 : key32 Config.fsMin = 0x472C4400 := by decide
    have k2 : key32 Config.fsMax = 0x493B8000 := by decide
    simp only [f32Le, Bool.and_eq_true, decide_eq_true_eq, k1, k2] at h1 h2
    unfold key32 signed at h1 h2
    rw [isFinite32, decide_eq_true_eq]
    split at h1
    · omega
    next hs =>
      rw [if_neg hs] at h2
      omega
  rw [f32Le_iff_val (by decide) hf, val32_fsMin] at h1
  rw [f32Le_iff_val hf (by decide), val32_fsMax] at h2
  exact ⟨hf, h1, h2⟩

/-- The numerator `(−P_DYN_K)·Ts` of both exponents of R700. -/
def timeRate (p : Params) (fs : F32) : F64 := f64Mul (f64Neg p.dynK) (f64Div 0x3FF0000000000000#64 (widen fs))

theorem timeCoef_eq (tr : TR) (p : Params) (fs ms : F32) :
    timeCoef tr p fs ms = narrow32 (f64Sub 0x3FF0000000000000#64
      (trExp tr (f64Div (timeRate p fs) (f64Div (widen ms) 0x408F400000000000#64)))) := rfl

theorem val64_two_pow_neg_20 : val64 0x3EB0000000000000#64 = 1 / 2 ^ 20 := by
  rw [val64, show unpack64 0x3EB0000000000000#64 = .fin false (2 ^ 52) (-72) by decide, Fp.val_fin]
  norm_num [sgn]

theorem val64_neg_two_pow_neg_20 : val64 0xBEB0000000000000#64 = -(1 / 2 ^ 20) := by
  rw [val64, show unpack64 0xBEB0000000000000#64 = .fin true (2 ^ 52) (-72) by decide, Fp.val_fin]
  norm_num [sgn]

theorem val64_neg_four : val64 0xC010000000000000#64 = -4 := by
  rw [val64, show unpack64 0xC010000000000000#64 = .fin true (2 ^ 52) (-50) by decide, Fp.val_fin]
  norm_num [sgn]

/-- The negated factor 2.2. -/
theorem val64_neg_dynK : val64 0xC00199999999999A#64 ≤ -1 ∧ -4 ≤ val64 0xC00199999999999A#64 := by
  rw [val64, show unpack64 0xC00199999999999A#64 = .fin true 0x1199999999999A (-51) by decide, Fp.val_fin]
  norm_num [sgn]

/-- The period lies between 2^-20 s and 1 s. -/
theorem samplePeriod_range {fs : F32} (h1 : f32Le Config.fsMin fs = true) (h2 : f32Le fs Config.fsMax = true) :
    isFinite64 (f64Div 0x3FF0000000000000#64 (widen fs)) = true ∧
    1 / 2 ^ 20 ≤ val64 (f64Div 0x3FF0000000000000#64 (widen fs)) ∧
    val64 (f64Div 0x3FF0000000000000#64 (widen fs)) ≤ 1 := by
  obtain ⟨hf, hlo, hhi⟩ := fsHost_range h1 h2
  obtain ⟨hwiden, -⟩ := wideningIsExact
  obtain ⟨hexact, -⟩ := hwiden fs
  obtain ⟨hw, hv⟩ := hexact hf
  have hpos : (0 : ℚ) < val32 fs := by linarith
  have hr := f64Div_rounds (a := 0x3FF0000000000000#64) (by decide) hw (by rw [hv]; exact hpos.ne')
  rw [rounds64_iff, val64_one, hv] at hr
  rw [← val64_two_pow_neg_20, ← val64_one]
  refine hr.between (by decide) (by decide) ?_ ?_
  · refine val64_two_pow_neg_20.trans_le (one_div_le_one_div_of_le hpos ?_)
    linarith
  · refine ((div_le_one hpos).2 ?_).trans_eq val64_one.symm
    linarith

theorem timeRate_neg {p : Params} {fs : F32} (hp : p.dynK = 0x400199999999999A#64)
    (h1 : f32Le Config.fsMin fs = true) (h2 : f32Le fs Config.fsMax = true) :
    isFinite64 (timeRate p fs) = true ∧ val64 (timeRate p fs) < 0 := by
  have hk : f64Neg p.dynK = 0xC00199999999999A#64 := hp ▸ (by decide)
  obtain ⟨hf, hlo, hhi⟩ := samplePeriod_range h1 h2
  obtain ⟨hk1, hk4⟩ := val64_neg_dynK
  have hr := f64Mul_rounds (a := 0xC00199999999999A#64) (by decide) hf
  rw [rounds64_iff] at hr
  rw [timeRate, hk]
  obtain ⟨hx, -, hle⟩ := hr.between (lo := 0xC010000000000000#64) (hi := 0xBEB0000000000000#64) (by decide) (by decide)
    (val64_neg_four.trans_le (by nlinarith)) (le_trans (by nlinarith) val64_neg_two_pow_neg_20.ge)
  exact ⟨hx, lt_of_le_of_lt hle (val64_neg_two_pow_neg_20.trans_lt (by norm_num))⟩

/-- A finite negative value over +0 is −∞, and over +∞ it is −0. -/
theorem f64Div_neg_limits {x : F64} (hx : isFinite64 x = true) (h : val64 x < 0) :
    f64Div x 0 = 0xFFF0000000000000#64 ∧ f64Div x 0x7FF0000000000000#64 = 0x8000000000000000#64 := by
  obtain ⟨hs, h0⟩ := msb_of_val64_neg hx h
  have hq : SpecialQuotients binary64 := binary64_eq ▸ fmt64.specialQuotients
  have hn := isNaN64_eq_false_of_finite hx
  obtain ⟨-, -, hinf, -⟩ := hq x 0 hn (by decide)
  obtain ⟨-, -, -, hzero⟩ := hq x 0x7FF0000000000000#64 hn (by decide)
  exact ⟨(hinf (.inr ⟨hx, h0, rfl⟩)).trans (hs ▸ rfl), (hzero ⟨hx, rfl⟩).trans (hs ▸ rfl)⟩

/-- Settles O56: the exponent is −∞ for a time of +0 and −0 for a time of +∞. -/
theorem timeCoefficientLimits : Obligations.TimeCoefficientLimits := by
  unfold Obligations.TimeCoefficientLimits
  intro tr p fs hp h1 h2
  obtain ⟨hx, hv⟩ := timeRate_neg hp h1 h2
  obtain ⟨hinf, hzero⟩ := f64Div_neg_limits hx hv
  have t0 : f64Div (widen 0x00000000#32) 0x408F400000000000#64 = 0 := by decide
  have ti : f64Div (widen 0x7F800000#32) 0x408F400000000000#64 = 0x7FF0000000000000#64 := by decide
  have e0 : trExp tr 0xFFF0000000000000#64 = 0 := if_pos rfl
  have ei : trExp tr 0x8000000000000000#64 = 0x3FF0000000000000#64 := rfl
  simp only [timeCoef_eq, t0, ti, hinf, hzero, e0, ei]
  decide +kernel

end Sys2Proof.Machine
end

section
/-! PROOFS. The control commands (spec/45_control.md R800, R810, R820; R1000): what every register reads after RESET and after
CLRST, and the one word of NOP. -/

namespace Sys2Proof.Machine

/-! ### Cleared channel banks (R530, R820) -/

theorem LadderState.get_zero (k : Nat) : LadderState.zero.get k = F32.zero := by
  unfold LadderState.get
  split <;> rfl

theorem os_clearProcessing (p : Params) (ch : Channel) (i : Nat) : (clearProcessing p ch).os i = F32.zero := by
  rcases Nat.lt_or_ge i 8 with hi | hi
  · exact os_clearOversampler p ch hi
  · simp [Channel.os, hi]

/-- A channel register reads 0 when it is 0 in every bank: an absent channel reads 0 as well. -/
theorem State.chanRead_eq_zero {s : State} {f : Channel → F32} (h : ∀ ch ∈ s.chans, f ch = 0) (c : Nat) :
    s.chanRead c f = 0 := by
  rcases Nat.lt_or_ge c s.nch with hc | hc
  · simpa [State.chanRead, hc] using h _ (List.getElem_mem hc)
  · exact State.chanRead_of_le hc f

/-- The internal elements are cleared when the banks and the queue are: an absent bank reads as a reset one. -/
theorem internalCleared_of_chans {t : State} (hch : ∀ ch ∈ t.chans, clearProcessing t.params ch = ch)
    (hq : t.dyn.queue = []) : InternalCleared t := by
  refine ⟨fun c => ?_, hq⟩
  have hc : clearProcessing t.params (t.chan c) = t.chan c := by
    rcases Nat.lt_or_ge c t.nch with h | h
    · simpa [State.chan, h] using hch _ (List.getElem_mem h)
    · rw [State.chan, List.getD_eq_default _ _ h]
      rfl
  rw [← hc]
  exact ⟨rfl, rfl⟩

/-! ### RESET (R810, R1000) -/

theorem State.chanRead_resetCore (s : State) (c : Nat) {f : Channel → F32} (h : f (resetChannel s.params) = 0) :
    (resetCore s).chanRead c f = 0 :=
  State.chanRead_eq_zero (fun _ hch => List.eq_of_mem_replicate hch ▸ h) c

theorem envRead_resetEnv (p : Params) (v : EnvResetValues) (x : EnvReg) :
    envRead (resetEnv p v) x = resetEnvReading p v x := by
  cases x <;> rfl

/-- P_OSF_DEFAULT is put into CFG[1:0], which the reset value of the other fields leaves free (R114). -/
theorem resetCfg_eq (o : BitVec 2) : 0x00000010#32 ||| o.setWidth 32 = BitVec.ofNat 32 (0x10 + o.toNat) := by
  revert o
  decide

theorem readReg_resetCore (s : State) (r : Reg) : readReg (resetCore s) r = resetReading s.params r := by
  cases r with
  | cfg => exact resetCfg_eq s.params.osfDefault
  | env b x => cases b <;> exact envRead_resetEnv ..
  | ladIn c | ladFc c | ladRes c | ladOut c => exact State.chanRead_resetCore s c rfl
  | lstate c k => exact State.chanRead_resetCore s c (LadderState.get_zero k)
  | osbuf c i => exact State.chanRead_resetCore s c (os_clearProcessing s.params (resetChannel s.params) i)
  | _ => rfl

theorem irq_resetCore (s : State) : (resetCore s).irq = false := by
  simp [State.irq]

/-- Settles O20: ResetCore gives every register its reset reading, and every bank of it is a cleared one. -/
theorem resetCommand : Obligations.ResetCommand := by
  unfold Obligations.ResetCommand
  exact fun s => ⟨resetCore s, rfl, readReg_resetCore s,
    internalCleared_of_chans (fun _ hch => List.eq_of_mem_replicate hch ▸ rfl) rfl,
    ⟨rfl, rfl, rfl, rfl, State.nch_resetCore s⟩, irq_resetCore s, illegalFormsRaise s _⟩

/-! ### CLRST (R820) -/

theorem State.chanRead_clearState (s : State) (c : Nat) {f : Channel → F32}
    (h : ∀ ch, f (clearProcessing s.params ch) = 0) : (clearState s).chanRead c f = 0 := by
  refine State.chanRead_eq_zero (fun _ hch => ?_) c
  obtain ⟨ch, -, rfl⟩ := List.mem_map.1 hch
  exact h ch

theorem envRead_clearEnv (p : Params) (v : EnvResetValues) (e : EnvBank) (x : EnvReg) :
    envRead (clearEnv p e) x = if isEnvState x then resetEnvReading p v x else envRead e x := by
  cases x <;> rfl

theorem readReg_clearState (s : State) (r : Reg) :
    readReg (clearState s) r = if clearedByClrst r then resetReading s.params r else readReg s r := by
  cases r with
  | env b x => cases b <;> exact envRead_clearEnv ..
  | ladIn c | ladFc c | ladRes c => exact State.chanRead_map s c fun _ => rfl
  | ladOut c => exact State.chanRead_clearState s c fun _ => rfl
  | lstate c k => exact State.chanRead_clearState s c fun _ => LadderState.get_zero k
  | osbuf c i => exact State.chanRead_clearState s c fun ch => os_clearProcessing s.params ch i
  | _ => rfl

/-- Settles O21: the clear gives its registers their reset readings and leaves the others, and clearing a bank again changes
nothing. -/
theorem clrstCommand : Obligations.ClrstCommand := by
  unfold Obligations.ClrstCommand
  refine fun s => ⟨clearState s, rfl, readReg_clearState s, internalCleared_of_chans (fun _ hch => ?_) rfl,
    ⟨rfl, rfl, rfl, rfl, State.nch_clearState s⟩, illegalFormsRaise s _⟩
  obtain ⟨ch, -, rfl⟩ := List.mem_map.1 hch
  rfl

/-! ### NOP (R800) -/

/-- The only legal word with opcode 0x00 is that of NOP. -/
theorem eq_zero_of_legalWord {w : Word} {nch n : Nat} (ho : w.field 31 24 = 0x00) (h : LegalWord w nch n) : w = 0 := by
  obtain ⟨i, hd⟩ := decode_of_legalWord h
  have hopc : i.opc = 0x00 := by
    obtain ⟨-, hi, -, -⟩ := (decode_eq_ok_iff w i).1 hd
    rw [← hi, ← field_opc, ho]
  cases i with
  | nop => exact (encode_of_decode hd).symm
  | _ => cases hopc

/-- Settles O22: NOP is the command of the word 0, and every other word with its opcode is illegal. -/
theorem nopCommand : Obligations.NopCommand := by
  unfold Obligations.NopCommand
  exact fun s => ⟨rfl, fun hr => (step_writeCmd hr _).trans (command_of_decode (i := .nop) rfl s),
    fun w ho hw hl => hw (eq_zero_of_legalWord ho hl), illegalFormsRaise s _⟩

end Sys2Proof.Machine
end

section
/-! PROOFS. The frame of every command but RESET and CLRST (R125, R831, R901): the registers, the channels and the events that its
rule does not name are left alone. -/

namespace Sys2Proof.Machine

/-! ### Frames -/

/-- From `s` to `t` nothing changes but the event registers and what the rule of `i` names. -/
structure Framed (i : Instr) (s t : State) : Prop where
  regs  : ∀ r, writtenBy i r = false → isEventReg r = false → readReg t r = readReg s r
  host  : SameHost s t
  chans : ∀ c, touchesChannel i c = false → t.chan c = s.chan c

theorem SameHost.refl (s : State) : SameHost s s := ⟨rfl, rfl, rfl, rfl, rfl⟩

theorem SameHost.trans {s t u : State} (h : SameHost s t) (h' : SameHost t u) : SameHost s u := by
  obtain ⟨hp, hi, hd, hr, hn⟩ := h
  obtain ⟨hp', hi', hd', hr', hn'⟩ := h'
  exact ⟨hp'.trans hp, hi'.trans hi, hd'.trans hd, hr'.trans hr, hn'.trans hn⟩

theorem Framed.trans {i : Instr} {s t u : State} (h : Framed i s t) (h' : Framed i t u) : Framed i s u where
  regs r hw he := (h'.regs r hw he).trans (h.regs r hw he)
  host := h.host.trans h'.host
  chans c hc := (h'.chans c hc).trans (h.chans c hc)

/-! ### Channel banks (R452, R453, R510, R520) -/

/-- From `ch` to `ch'` the bank of channel `c` keeps every register that the rule of `i` does not name. -/
structure KeepsUnwritten (i : Instr) (c : Nat) (ch ch' : Channel) : Prop where
  ladIn  : ch'.ladIn = ch.ladIn
  ladFc  : ch'.ladFc = ch.ladFc
  ladRes : ch'.ladRes = ch.ladRes
  ladOut : writtenBy i (.ladOut c) = false → ch'.ladOut = ch.ladOut
  lstate : ∀ k, writtenBy i (.lstate c k) = false → ch'.lstate.get k = ch.lstate.get k
  osbuf  : ∀ j, writtenBy i (.osbuf c j) = false → ch'.os j = ch.os j

/-- A command that writes LAD_OUT, LSTATE and OSBUF of its channel has LAD_IN, LAD_FC and LAD_RES to keep. -/
theorem keepsUnwritten_of_inputs {i : Instr} {c : Nat} {ch ch' : Channel} (ho : writtenBy i (.ladOut c) = true)
    (hst : ∀ k, writtenBy i (.lstate c k) = true) (hos : ∀ j, writtenBy i (.osbuf c j) = true)
    (h : ch'.ladIn = ch.ladIn ∧ ch'.ladFc = ch.ladFc ∧ ch'.ladRes = ch.ladRes) : KeepsUnwritten i c ch ch' := by
  obtain ⟨hin, hfc, hres⟩ := h
  exact ⟨hin, hfc, hres, fun hf => absurd ho (ne_true_of_eq_false hf), fun k hf => absurd (hst k) (ne_true_of_eq_false hf),
    fun j hf => absurd (hos j) (ne_true_of_eq_false hf)⟩

theorem keepsUnwritten_upsample (p : Params) (o : Osf) (c : BitVec 4) (ch : Channel) :
    KeepsUnwritten (.ups c) c.toNat ch (upsample p o ch) :=
  ⟨rfl, rfl, rfl, fun _ => rfl, fun _ _ => rfl, fun _ hf => absurd hf (by simp [writtenBy])⟩

theorem keepsUnwritten_ladderIterate (p : Params) (co : Coefs) (c i : BitVec 4) (ch : Channel) :
    KeepsUnwritten (.lstep c i) c.toNat ch (ladderIterate p co i.toNat ch) := by
  refine ⟨rfl, rfl, rfl, fun _ => rfl, fun _ hf => absurd hf (by simp [writtenBy]), fun j hf => ?_⟩
  refine os_ladderIterate_other p co ch fun hj => ?_
  simp [writtenBy, hj] at hf

theorem keepsUnwritten_channelResult {c : BitVec 4} {i : Instr} (h : OnChannel c i) {p : Params} {cfg : Word} {fs : F32}
    {ch : Channel} {d : Decimated} (hd : channelResult p cfg fs ch i = some d) : KeepsUnwritten i c.toNat ch d.ch := by
  obtain ⟨k, rfl | rfl | rfl | rfl⟩ := h
  · cases hd
    exact keepsUnwritten_upsample ..
  · obtain ⟨ch', hs, rfl⟩ := Option.map_eq_some_iff.1 hd
    obtain ⟨co, -, rfl⟩ := Option.map_eq_some_iff.1 hs
    exact keepsUnwritten_ladderIterate ..
  · cases hd
    exact keepsUnwritten_of_inputs (by simp [writtenBy]) (by simp [writtenBy]) (by simp [writtenBy]) (decimate_inputs ..)
  · exact keepsUnwritten_of_inputs (by simp [writtenBy]) (by simp [writtenBy]) (by simp [writtenBy])
      (ladderFrame_inputs hd)

theorem framed_finishDecim {i : Instr} {c : Nat} {d : Decimated} {s : State} (ht : touchesChannel i c = true)
    (h : KeepsUnwritten i c (s.chan c) d.ch) : Framed i s (finishDecim c d s) where
  regs r hw he := readReg_finishDecim he <| readReg_setChan h.ladIn h.ladFc h.ladRes (fun hr => h.ladOut (hr ▸ hw))
    (fun k hr => h.lstate k (hr ▸ hw)) fun j hr => h.osbuf j (hr ▸ hw)
  host := sameHost_finishDecim s c d
  chans c' hc' := by
    refine chan_finishDecim_other (fun hc => ?_) d
    rw [hc, ht] at hc'
    cases hc'

theorem OnChannel.touches {c : BitVec 4} {i : Instr} (h : OnChannel c i) : touchesChannel i c.toNat = true := by
  obtain ⟨k, rfl | rfl | rfl | rfl⟩ := h <;> exact beq_self_eq_true c.toNat

/-- A channel command that completes puts a result back into its channel. -/
theorem exec_onChannel_next {c : BitVec 4} {i : Instr} {s t : State} (h : OnChannel c i) (hl : s.legal i = true)
    (he : exec i s = .next t) :
    ∃ d, channelResult s.params s.cfg s.fsHost (s.chan c.toNat) i = some d ∧ t = finishDecim c.toNat d s := by
  rw [exec_onChannel h hl] at he
  cases hd : channelResult s.params s.cfg s.fsHost (s.chan c.toNat) i with
  | none =>
    rw [hd] at he
    cases he
  | some d =>
    rw [hd] at he
    cases he
    exact ⟨d, rfl, rfl⟩

theorem framed_onChannel {c : BitVec 4} {i : Instr} {s t : State} (h : OnChannel c i) (hl : s.legal i = true)
    (he : exec i s = .next t) : Framed i s t := by
  obtain ⟨d, hd, rfl⟩ := exec_onChannel_next h hl he
  exact framed_finishDecim h.touches (keepsUnwritten_channelResult h hd)

/-! ### Envelopes and BASS (R620, R621, R640) -/

theorem framed_tickEnv {i : Instr} {b : Bank} (tr : TR) (s : State)
    (h : ∀ x, isEnvState x = true → writtenBy i (.env b x) = true) : Framed i s (tickEnv tr b s) where
  regs r hw _ := by
    cases r with
    | env b' x =>
      by_cases hb : b' = b
      · subst hb
        have hx : isEnvState x = false := Bool.eq_false_iff.2 fun hx => ne_true_of_eq_false hw (h x hx)
        exact (congrArg (envRead · x) (State.env_setEnv_self ..)).trans
          (envRead_of_clearEnv_eq (clearEnv_envTick s.params ..) hx)
      · exact congrArg (envRead · x) (State.env_setEnv_other _ _ _ _ hb)
    | _ => cases b <;> rfl
  host := by cases b <;> exact SameHost.refl s
  chans c _ := State.chan_setEnv ..

/-- BASS writes FC_EFF and BASS_OUT last (R640). -/
theorem framed_bassResults (s : State) (fc out : F32) :
    Framed .bass s { s with bass := { s.bass with fcEff := fc, bassOut := out } } where
  regs r hw _ := by
    cases r with
    | fcEff | bassOut => cases hw
    | _ => rfl
  host := SameHost.refl s
  chans _ _ := rfl

theorem framed_bassFrame {tr : TR} {s t : State} (h : bassFrame tr s = some t) : Framed .bass s t := by
  obtain ⟨d, hd, rfl⟩ := Option.map_eq_some_iff.1 h
  have hvca : Framed .bass s (tickEnv tr .vca s) := framed_tickEnv tr s fun _ hx => hx
  have hvcf : Framed .bass (tickEnv tr .vca s) (tickEnv tr .vcf (tickEnv tr .vca s)) := framed_tickEnv tr _ fun _ hx => hx
  have hlad : Framed .bass (tickEnv tr .vcf (tickEnv tr .vca s)) (finishDecim 0 d (tickEnv tr .vcf (tickEnv tr .vca s))) :=
    framed_finishDecim rfl (keepsUnwritten_of_inputs rfl (fun _ => rfl) (fun _ => rfl) (ladderFrame_inputs hd))
  exact ((hvca.trans hvcf).trans hlad).trans (framed_bassResults ..)

/-! ### DYN (R702, R720) -/

theorem framed_withDyn {s : State} {u : DynUnit} (h : clearDyn u = clearDyn s.dyn) : Framed .dyn s { s with dyn := u } where
  regs _ hw _ := readReg_of_clearDyn_eq h hw
  host := SameHost.refl s
  chans _ _ := rfl

theorem framed_raiseEvent (i : Instr) (k : EventCode) (ch off : Nat) (d : Word) (s : State) :
    Framed i s (raiseEvent k ch off d s) where
  regs _ _ he := readReg_raiseEvent k ch off d s he
  host := SameHost.refl s
  chans _ _ := rfl

theorem framed_dynTick (tr : TR) (s : State) : Framed .dyn s (dynTick tr s) := by
  rcases dynTick_cases tr s _ rfl with ⟨-, -, e⟩ | ⟨-, e⟩ <;> rw [e]
  · exact framed_withDyn (clearDyn_dynCompute ..)
  · exact (framed_withDyn ((clearDyn_dynRecover _).trans (clearDyn_dynCompute ..))).trans (framed_raiseEvent ..)

/-! ### Every command -/

theorem framed_tanh (s : State) (x : F32) : Framed .tanh s { s with tanhOut := x } where
  regs r hw _ := by
    cases r with
    | tanhOut => cases hw
    | _ => rfl
  host := SameHost.refl s
  chans _ _ := rfl

theorem framed_exec {i : Instr} {s t : State} (hl : s.legal i = true) (hr : i ≠ .reset) (hc : i ≠ .clrst)
    (h : exec i s = .next t) : Framed i s t := by
  cases i with
  | reset => exact absurd rfl hr
  | clrst => exact absurd rfl hc
  | nop =>
    cases h
    exact ⟨fun _ _ _ => rfl, SameHost.refl s, fun _ _ => rfl⟩
  | tanh =>
    cases h
    exact framed_tanh ..
  | ups c => exact framed_onChannel (c := c) ⟨0, .inl rfl⟩ hl h
  | lstep c k => exact framed_onChannel (c := c) ⟨k, .inr (.inl rfl)⟩ hl h
  | dec c => exact framed_onChannel (c := c) ⟨0, .inr (.inr (.inl rfl))⟩ hl h
  | filt c => exact framed_onChannel (c := c) ⟨0, .inr (.inr (.inr rfl))⟩ hl h
  | vca | vcf =>
    cases h
    exact framed_tickEnv _ s fun _ hx => hx
  | bass =>
    simp only [exec, execBass, hl, if_true] at h
    split at h <;> cases h
    next hb => exact framed_bassFrame hb
  | dyn =>
    cases h
    exact framed_dynTick ..

/-! ### Events (R901) -/

theorem noEvent_tickEnv (tr : TR) (b : Bank) (s : State) : NoEvent s (tickEnv tr b s) :=
  ⟨State.setEnv_status .., State.setEnv_evtInfo .., State.setEnv_evtData ..⟩

/-- A command outside `mayRaise` records no event: the recovery and the hard recovery are in the four commands of `mayRaise`. -/
theorem noEvent_exec {i : Instr} {s t : State} (hl : s.legal i = true) (hr : i ≠ .reset) (hm : mayRaise i = false)
    (h : exec i s = .next t) : NoEvent s t := by
  cases i with
  | dec | filt | bass | dyn => cases hm
  | reset => exact absurd rfl hr
  | nop | clrst | tanh =>
    cases h
    exact ⟨rfl, rfl, rfl⟩
  | vca | vcf =>
    cases h
    exact noEvent_tickEnv ..
  | ups c =>
    rw [exec_ups s c hl] at h
    cases h
    exact ⟨rfl, rfl, rfl⟩
  | lstep c k =>
    obtain ⟨d, hd, rfl⟩ := exec_onChannel_next (c := c) ⟨k, .inr (.inl rfl)⟩ hl h
    obtain ⟨ch, -, rfl⟩ := Option.map_eq_some_iff.1 hd
    exact ⟨rfl, rfl, rfl⟩

/-- Settles O58: each command is a composition of updates that keep what its rule does not name. -/
theorem commandsChangeOnlyTheirRegisters : Obligations.CommandsChangeOnlyTheirRegisters := by
  unfold Obligations.CommandsChangeOnlyTheirRegisters
  intro i s t hl hr hc h
  obtain ⟨hregs, hhost, hchans⟩ := framed_exec hl hr hc h
  exact ⟨hregs, fun hm => noEvent_exec hl hr hm h, hhost, hchans,
    fun hd => congrArg DynUnit.queue (dyn_of_exec hd hr hc h)⟩

end Sys2Proof.Machine
end

section
/-! PROOFS. The cause of every event (R901, R902, R903): what a bus access leaves in STATUS, EVT_INFO and EVT_DATA. -/

namespace Sys2Proof.Machine

/-! ### Recording after other updates -/

/-- An event raised after updates that touch no event register is recorded over the STATUS before them. -/
theorem recorded_raiseEvent {s u : State} (h : NoEvent s u) (k : EventCode) (ch off : Nat) (d : Word) :
    Recorded s (raiseEvent k ch off d u) k ch off d := by
  obtain ⟨hs, -, -⟩ := h
  exact ⟨congrArg (· ||| statusBit k ch) hs, rfl, rfl⟩

theorem noEvent_setEnv (s : State) (b : Bank) (e : EnvBank) : NoEvent s (s.setEnv b e) :=
  ⟨State.setEnv_status .., State.setEnv_evtInfo .., State.setEnv_evtData ..⟩

theorem NoEvent.trans {s t u : State} (h : NoEvent s t) (h' : NoEvent t u) : NoEvent s u := by
  obtain ⟨hs, hi, hd⟩ := h
  obtain ⟨hs', hi', hd'⟩ := h'
  exact ⟨hs'.trans hs, hi'.trans hi, hd'.trans hd⟩

/-! ### The recoveries (R530, R720) -/

/-- The value a decimation reports is not finite. -/
theorem not_finite_of_decimate {p : Params} {o : Osf} {ch : Channel} {v : F32} (h : (decimate p o ch).bad = some v) :
    isFinite32 v = false := by
  rcases decimate_spec p o ch with ⟨-, e⟩ | ⟨hf, e⟩ <;> rw [e] at h <;> cases h
  exact hf

theorem not_finite_of_ladderFrame {k : LadderCtx} {ch : Channel} {d : Decimated} {v : F32}
    (hd : ladderFrame k ch = some d) (h : d.bad = some v) : isFinite32 v = false := by
  obtain ⟨ch', -, rfl⟩ := Option.map_eq_some_iff.1 hd
  exact not_finite_of_decimate h

/-- LADDIV of channel `c` is recorded, with data that are not finite. -/
def Diverged (c : Nat) (s t : State) : Prop := ∃ v : F32, isFinite32 v = false ∧ Recorded s t .laddiv c 0 v

theorem event_finishDecim {s u : State} (hu : NoEvent s u) (c : Nat) {d : Decimated}
    (hd : ∀ v, d.bad = some v → isFinite32 v = false) :
    NoEvent s (finishDecim c d u) ∨ Diverged c s (finishDecim c d u) := by
  rcases finishDecim_spec c d u with ⟨-, e⟩ | ⟨v, hv, e⟩ <;> rw [e]
  · exact .inl hu
  · exact .inr ⟨v, hd v hv, recorded_raiseEvent hu ..⟩

theorem event_bassFrame {tr : TR} {s t : State} (h : bassFrame tr s = some t) : NoEvent s t ∨ Diverged 0 s t := by
  obtain ⟨d, hd, rfl⟩ := Option.map_eq_some_iff.1 h
  exact event_finishDecim ((noEvent_tickEnv tr .vca s).trans (noEvent_tickEnv tr .vcf _)) 0
    fun _ => not_finite_of_ladderFrame hd

theorem event_dynTick (tr : TR) (s : State) : NoEvent s (dynTick tr s) ∨ Recorded s (dynTick tr s) .dynrst 0 0 0 := by
  rcases dynTick_cases tr s _ rfl with ⟨-, -, e⟩ | ⟨-, e⟩ <;> rw [e]
  · exact .inl ⟨rfl, rfl, rfl⟩
  · exact .inr ⟨rfl, rfl, rfl⟩

/-! ### Commands -/

/-- The commands that decimate channel `c`. -/
def Decimates (c : BitVec 4) (i : Instr) : Prop := i = .dec c ∨ i = .filt c ∨ (i = .bass ∧ c = 0)

/-- A legal command but RESET records at most the event of the recovery it can run. -/
theorem event_exec {i : Instr} {s t : State} (hl : s.legal i = true) (hr : i ≠ .reset) (h : exec i s = .next t) :
    NoEvent s t ∨ (∃ c, Decimates c i ∧ Diverged c.toNat s t) ∨ (i = .dyn ∧ Recorded s t .dynrst 0 0 0) := by
  cases i with
  | reset => exact absurd rfl hr
  | nop | clrst | tanh | ups | lstep | vca | vcf => exact .inl (noEvent_exec hl nofun rfl h)
  | dec c =>
    rw [exec_dec s c hl] at h
    cases h
    exact (event_finishDecim ⟨rfl, rfl, rfl⟩ c.toNat fun _ => not_finite_of_decimate).imp_right
      fun hv => .inl ⟨c, .inl rfl, hv⟩
  | filt c =>
    obtain ⟨d, hd, rfl⟩ := exec_onChannel_next (c := c) ⟨0, .inr (.inr (.inr rfl))⟩ hl h
    exact (event_finishDecim ⟨rfl, rfl, rfl⟩ c.toNat fun _ => not_finite_of_ladderFrame hd).imp_right
      fun hv => .inl ⟨c, .inr (.inl rfl), hv⟩
  | bass =>
    simp only [exec, execBass, hl, if_true] at h
    split at h <;> cases h
    next hb => exact (event_bassFrame hb).imp_right fun hv => .inl ⟨0, .inr (.inr ⟨rfl, rfl⟩), hv⟩
  | dyn =>
    cases h
    exact (event_dynTick _ s).imp_right fun hv => .inr ⟨rfl, hv⟩

/-- The event of a write to CMD: ILLCMD of a word that is not legal, or the event of the command of a legal one. -/
theorem event_command {w : Word} {s t : State} (h : command w s = .next t) :
    NoEvent s t ∨ (w = encode .reset ∧ t.status = 0 ∧ t.evtInfo = 0 ∧ t.evtData = 0) ∨
    (¬ LegalWord w s.nch s.factor ∧ Recorded s t .illcmd 0 0 w) ∨
    (∃ c i, w = encode i ∧ Decimates c i ∧ Diverged c.toNat s t) ∨ (w = encode .dyn ∧ Recorded s t .dynrst 0 0 0) := by
  by_cases hw : LegalWord w s.nch s.factor
  · obtain ⟨i, hd, hl⟩ := (exists_legal_iff_legalWord s w).2 hw
    obtain rfl := encode_of_decode hd
    rw [command_of_decode hd] at h
    by_cases hr : i = .reset
    · subst hr
      cases h
      exact .inr (.inl ⟨rfl, rfl, rfl, rfl⟩)
    rcases event_exec hl hr h with hn | ⟨c, hc, hv⟩ | ⟨rfl, hv⟩
    · exact .inl hn
    · exact .inr (.inr (.inr (.inl ⟨c, i, rfl, hc, hv⟩)))
    · exact .inr (.inr (.inr (.inr ⟨rfl, hv⟩)))
  · rw [command_of_not_legalWord hw] at h
    cases h
    exact .inr (.inr (.inl ⟨hw, rfl, rfl, rfl⟩))

/-! ### Register writes (R114, R115, R130, R150) -/

/-- The offsets of the WARL registers (R101): CFG, FS_HOST, the two PEAK_LVL, DYN_TA_MS, DYN_TR_MS and DYN_DEPTH. -/
def warlOffsets : List Nat := [0x018, 0x01C, 0x218, 0x258, 0x30C, 0x310, 0x318]

/-- From `s` to `t` no event is recorded, or CFGADJ of a write of `v` to the register `r`, which reads another value in `t`. -/
def KeepsOrAdjusts (s t : State) (r : Reg) (v : Word) : Prop :=
  NoEvent s t ∨ ∃ off ∈ warlOffsets, regOffset r = some off ∧ readReg t r ≠ v ∧ Recorded s t .cfgadj 0 off v

/-- A write that stores its value when that is legal, and otherwise stores a replacement and records CFGADJ. -/
theorem keepsOrAdjusts_ite (legal : Prop) [Decidable legal] {off : Nat} {r : Reg} {v : Word} {s t u : State}
    (hm : off ∈ warlOffsets) (ho : regOffset r = some off) (he : isEventReg r = false) (ht : NoEvent s t) (hu : NoEvent s u)
    (hv : ¬ legal → readReg u r ≠ v) : KeepsOrAdjusts s (if legal then t else cfgAdjusted off v u) r v := by
  split
  next => exact .inl ht
  next hl =>
    refine .inr ⟨off, hm, ho, ?_, recorded_raiseEvent hu ..⟩
    rw [cfgAdjusted, readReg_raiseEvent _ _ _ _ _ he]
    exact hv hl

/-- CFG never reads back the OSF code 0 (R114). -/
theorem keepsOrAdjusts_writeCfg {s : State} (hp : paramsOk s.params = true) (v : Word) :
    KeepsOrAdjusts s (writeCfg v s) .cfg v := by
  have h := writeCfg_event v s
  split at h
  next hv =>
    obtain ⟨-, hne⟩ := cfgStored_legal (osfDefault_ne_zero hp) v
    have hread : readReg (writeCfg v s) .cfg = cfgStored s.params v := cfg_writeCfg v s
    refine .inr ⟨0x018, by decide, rfl, fun e => hne ?_, h⟩
    rw [← hread, e, hv]
  next => exact .inl h

/-- P_ENV_MIN is a legal PEAK_LVL, so a value it replaces is another one (R130). -/
theorem keepsOrAdjusts_writePeakLvl {s : State} (hp : paramsOk s.params = true) (b : Bank) (v : Word) :
    KeepsOrAdjusts s (writePeakLvl b (peakLvlOffset b) v s) (.env b .peakLvl) v := by
  refine keepsOrAdjusts_ite _ (by cases b <;> decide) (by cases b <;> rfl) rfl (noEvent_setEnv ..) (noEvent_setEnv ..)
    fun hl e => hl ?_
  rw [readReg, State.env_setEnv_self] at e
  exact (congrArg (peakLvlLegal s.params.envMin) e).symm.trans (peakLvlLegal_envMin hp)

/-- Of the registers that are not STATUS, a write can record an event for the seven WARL ones alone. -/
theorem keepsOrAdjusts_writeReg {s : State} (hp : paramsOk s.params = true) (v : Word) {r : Reg} (hr : r ≠ .status) :
    KeepsOrAdjusts s (writeReg v s r) r v := by
  cases r with
  | status => exact absurd rfl hr
  | cfg => exact keepsOrAdjusts_writeCfg hp v
  | fsHost => exact keepsOrAdjusts_ite _ (by decide) rfl rfl ⟨rfl, rfl, rfl⟩ ⟨rfl, rfl, rfl⟩ id
  | dynTaMs | dynTrMs =>
    exact keepsOrAdjusts_ite _ (by decide) rfl rfl ⟨rfl, rfl, rfl⟩ ⟨rfl, rfl, rfl⟩
      fun hl e => hl ((congrArg dynTimeLegal e).symm.trans (dynTimeStored_legal v))
  | dynDepth =>
    exact keepsOrAdjusts_ite _ (by decide) rfl rfl ⟨rfl, rfl, rfl⟩ ⟨rfl, rfl, rfl⟩
      fun hl e => hl (congrArg BitVec.toNat e).ge
  | env b x =>
    cases x with
    | peakLvl => exact keepsOrAdjusts_writePeakLvl hp b v
    | tAtt | tAccAtt | tPeak | tDec | tAccDec | tEnd => exact .inl (noEvent_setEnv ..)
    | _ => exact .inl ⟨rfl, rfl, rfl⟩
  | _ => exact .inl ⟨rfl, rfl, rfl⟩

/-! ### Bus accesses (R202) -/

theorem narrow_or_misaligned {w : Width} {addr : Nat} (h : accessLegal w addr = false) : w ≠ .b32 ∨ addr % 4 ≠ 0 := by
  simpa [accessLegal, imp_iff_not_or] using h

/-- The register an aligned address selects has that address's offset in the map. -/
theorem offsetOf_eq_of_regAt {addr off : Nat} {r : Reg} (h4 : addr % 4 = 0) (ha : regAt (offsetOf addr) = r)
    (ho : regOffset r = some off) : offsetOf addr = off := by
  have hmap := regOffset_regAt (off := offsetOf addr) (by unfold offsetOf; omega)
  rw [ha] at hmap
  rcases hmap with rfl | hmap
  · cases ho
  · exact Option.some.inj (hmap.symm.trans ho)

/-- Settles O18: each kind of access records at most one event, and the lemma on that kind names its cause. -/
theorem everyEventHasItsCause : Obligations.EveryEventHasItsCause := by
  unfold Obligations.EveryEventHasItsCause
  intro s t a hr hp h
  rw [step_withAccess s a hr] at h
  rcases busAccess_cases h with
    ⟨_, -, -, rfl⟩ | ⟨w, addr, rfl, hl, rfl⟩ | ⟨w, addr, v, rfl, hl, rfl⟩ | ⟨addr, w, rfl, h4, hreg, hc⟩ |
    ⟨addr, v, rfl, h4, -, rfl⟩
  · exact .inl ⟨rfl, rfl, rfl⟩
  · exact .inr (.inr (.inr (.inr (.inl ⟨w, addr, narrow_or_misaligned hl, .inl ⟨rfl, rfl, rfl, rfl⟩⟩))))
  · exact .inr (.inr (.inr (.inr (.inl ⟨w, addr, narrow_or_misaligned hl, .inr ⟨v, rfl, rfl, rfl, rfl⟩⟩))))
  · have ho : offsetOf addr = 0x000 := offsetOf_eq_of_regAt h4 hreg rfl
    rcases event_command hc with hn | ⟨rfl, hz⟩ | ⟨hw, hv⟩ | ⟨c, i, rfl, hi, d, hd, hv⟩ | ⟨rfl, hv⟩
    · exact .inl hn
    · exact .inr (.inr (.inl ⟨⟨addr, ho, rfl⟩, hz⟩))
    · exact .inr (.inr (.inr (.inl ⟨addr, w, rfl, ho, hw, hv⟩)))
    · have hcmd : IsCommand (.write .b32 addr (encode i)) i := ⟨addr, ho, rfl⟩
      refine .inr (.inr (.inr (.inr (.inr (.inr (.inl ⟨c, d, ?_, hd, hv⟩))))))
      rcases hi with rfl | rfl | ⟨rfl, hc0⟩
      · exact .inl hcmd
      · exact .inr (.inl hcmd)
      · exact .inr (.inr ⟨hcmd, hc0⟩)
    · exact .inr (.inr (.inr (.inr (.inr (.inr (.inr ⟨⟨addr, ho, rfl⟩, hv⟩))))))
  · by_cases hs : regAt (offsetOf addr) = .status
    · rw [hs]
      exact .inr (.inl ⟨addr, v, rfl, offsetOf_eq_of_regAt h4 hs rfl, rfl⟩)
    rcases keepsOrAdjusts_writeReg hp v hs with hn | ⟨off, hm, ho, hne, hv⟩
    · exact .inl hn
    · obtain rfl := offsetOf_eq_of_regAt h4 rfl ho
      exact .inr (.inr (.inr (.inr (.inr (.inl ⟨addr, v, rfl, hm, hne, hv⟩)))))

end Sys2Proof.Machine
end

section
/-! PROOFS. What stops a step (R503, R900, spec/93_implementation_defined.md I7): a refusal is that of a legal ladder command
without coefficients, and it reaches the step unchanged. -/

namespace Sys2Proof.Machine

/-! ### Coefficients that cannot be formed -/

theorem gresReady_eq_false_iff (s : State) :
    s.gresReady = false ↔ s.cfg.getLsbD 2 = true ∧ s.params.gres = none := by
  simp [State.gresReady, cfgTres, cfgBit]

theorem coefOf_eq_none {s : State} (h : s.gresReady = false) (fc : F32) : coefOf (s.ladderCtx fc) = none := by
  rw [← Option.isNone_iff_eq_none, ← Option.not_isSome, coefOf_isSome, h]
  rfl

theorem ladderStep_eq_none {k : LadderCtx} (h : coefOf k = none) (i : Nat) (ch : Channel) : ladderStep k i ch = none := by
  rw [ladderStep, h]
  rfl

/-- A frame has at least two iterations, and the last of them is missing. -/
theorem ladderFrame_eq_none {k : LadderCtx} (h : coefOf k = none) (ch : Channel) : ladderFrame k ch = none := by
  obtain ⟨n, hn⟩ : ∃ n, (osfOf k.cfg).factor = n + 1 := by cases osfOf k.cfg <;> exact ⟨_, rfl⟩
  have hs (x : Channel) : ladderSteps k (n + 1) x = none :=
    Option.bind_eq_none_iff.2 fun _ _ => ladderStep_eq_none h n _
  rw [ladderFrame, hn, hs]
  rfl

/-! ### Commands -/

/-- The commands that run the ladder. -/
def UsesLadder (i : Instr) : Prop := (∃ c k, i = .lstep c k) ∨ (∃ c, i = .filt c) ∨ i = .bass

theorem exec_eq_refused {i : Instr} {s : State} (hl : s.legal i = true) (hu : UsesLadder i) (hg : s.gresReady = false) :
    exec i s = .refused .gresNotSupplied := by
  rcases hu with ⟨c, k, rfl⟩ | ⟨c, rfl⟩ | rfl
  · rw [exec_lstep_eq hl, ladderStep_eq_none (coefOf_eq_none hg _)]
    rfl
  · rw [exec_filt_eq hl, ladderFrame_eq_none (coefOf_eq_none hg _)]
    rfl
  · have hf : bassFrame Config.tr s = none :=
      Option.map_eq_none_iff.2 (ladderFrame_eq_none (coefOf_eq_none (s := bassTicked s) hg _) _)
    rw [exec, execBass, if_pos hl, hf]

theorem exec_next_of_gresReady {i : Instr} {s : State} (hl : s.legal i = true) (hu : UsesLadder i)
    (hg : s.gresReady = true) : ∃ t, exec i s = .next t := by
  rcases hu with ⟨c, k, rfl⟩ | ⟨c, rfl⟩ | rfl
  · obtain ⟨co, hco⟩ := exists_coefOf hg (s.chan c.toNat).ladFc
    exact ⟨_, exec_lstep s c k hl hco⟩
  · obtain ⟨ch, hd⟩ := ladderFrame_some s (s.chan c.toNat).ladFc (s.chan c.toNat) hg
    exact ⟨_, exec_filt s c hl hd⟩
  · obtain ⟨ch, hd⟩ := ladderFrame_some (bassTicked s) (bassCutoff s.bass (bassTicked s).vcf.level) (s.chan 0) hg
    exact ⟨_, exec_bass hl hd⟩

theorem exec_next_of_not_usesLadder {i : Instr} {s : State} (hl : s.legal i = true) (hu : ¬ UsesLadder i) :
    ∃ t, exec i s = .next t := by
  cases i with
  | lstep c k => exact absurd (.inl ⟨c, k, rfl⟩) hu
  | filt c => exact absurd (.inr (.inl ⟨c, rfl⟩)) hu
  | bass => exact absurd (.inr (.inr rfl)) hu
  | ups c => exact ⟨_, exec_ups s c hl⟩
  | dec c => exact ⟨_, exec_dec s c hl⟩
  | nop | reset | clrst | tanh | vca | vcf | dyn => exact ⟨_, rfl⟩

/-- A command answers, or it is a ladder command without coefficients and is refused for that. -/
theorem exec_next_or_refused (i : Instr) (s : State) :
    (∃ t, exec i s = .next t) ∨ (exec i s = .refused .gresNotSupplied ∧ UsesLadder i ∧ s.gresReady = false) := by
  cases hl : s.legal i with
  | false => exact .inl ⟨_, exec_illegal i s hl⟩
  | true =>
    by_cases hu : UsesLadder i
    · cases hg : s.gresReady with
      | true => exact .inl (exec_next_of_gresReady hl hu hg)
      | false => exact .inr ⟨exec_eq_refused hl hu hg, hu, rfl⟩
    · exact .inl (exec_next_of_not_usesLadder hl hu)

/-! ### Where a refusal comes from -/

/-- An access that is refused is a write of the command that is. -/
theorem busAccess_refused {a : Access} {s : State} {r : Refusal} (h : busAccess a s = .refused r) :
    ∃ i, IsCommand a i ∧ exec i s = .refused r := by
  cases a with
  | read w addr => cases h
  | write w addr v =>
    cases hl : accessLegal w addr with
    | false => simp [busAccess, hl] at h
    | true =>
      obtain ⟨rfl, h4⟩ : w = .b32 ∧ addr % 4 = 0 := by simpa [accessLegal] using hl
      rw [busAccess, if_pos hl] at h
      by_cases hreg : regAt (offsetOf addr) = .cmd
      · rw [hreg, busWrite, command] at h
        split at h
        next i hd => exact ⟨i, ⟨addr, offsetOf_eq_of_regAt h4 hreg rfl, by rw [encode_of_decode hd]⟩, h⟩
        next => cases h
      · rw [busWrite_of_ne_cmd hreg] at h
        cases h

/-- A step that is refused serves an access that is. -/
theorem step_refused {s : State} {r : Refusal} (h : step s = .refused r) :
    ∃ a rest, s.inputs = .access a :: rest ∧ busAccess a { s with inputs := rest } = .refused r := by
  unfold step serveNext at h
  split at h
  next => cases h
  next x rest hin =>
    cases x with
    | rstLow | rstHigh => cases h
    | access a =>
      simp only [serve] at h
      split at h
      next => exact ⟨a, rest, hin, h⟩
      next => cases h

/-- Settles O39: no step faults, and a refusal is traced back to the command that gave it. -/
theorem onlyTheUnsuppliedQuarticStopsAStep : Obligations.OnlyTheUnsuppliedQuarticStopsAStep := by
  unfold Obligations.OnlyTheUnsuppliedQuarticStopsAStep
  refine ⟨fun s => ?_, fun s i ht hg hl hu => exec_eq_refused hl hu ((gresReady_eq_false_iff s).2 ⟨ht, hg⟩)⟩
  cases hs : step s with
  | next t => exact .inl ⟨t, rfl⟩
  | fault r => cases r
  | refused r =>
    obtain ⟨a, rest, hin, ha⟩ := step_refused hs
    obtain ⟨i, hi, he⟩ := busAccess_refused ha
    rcases exec_next_or_refused i { s with inputs := rest } with ⟨t, hn⟩ | ⟨hr, hu, hg⟩
    · cases hn.symm.trans he
    · cases hr.symm.trans he
      obtain ⟨ht, hp⟩ := (gresReady_eq_false_iff { s with inputs := rest }).1 hg
      exact .inr ⟨rfl, ht, hp, a, rest, i, hin, hi, hu⟩

end Sys2Proof.Machine
end

section
/-! PROOFS. Reset (R140, R1000, R1001): an edge of RST_N to low is the RESET command, an access that RST_N holds off is dropped,
and the reset state of every admissible CORE meets the invariant. -/

namespace Sys2Proof.Machine

/-! ### The input RST_N (R1001) -/

/-- A step serves the first input. -/
theorem step_of_inputs {s : State} {x : Input} {rest : List Input} (h : s.inputs = x :: rest) :
    step s = serve x { s with inputs := rest } := by
  rw [step, serveNext, h]

/-- RST_N going low runs the procedure of the RESET command (R1000). -/
theorem step_rstLow {s : State} {rest : List Input} (h : s.inputs = .rstLow :: rest) :
    step s = exec .reset { s with inputs := rest, rstN := false } :=
  step_of_inputs h

theorem step_rstHigh {s : State} {rest : List Input} (h : s.inputs = .rstHigh :: rest) :
    step s = .next { s with inputs := rest, rstN := true } :=
  step_of_inputs h

theorem step_heldAccess {s : State} {a : Access} {rest : List Input} (hr : s.rstN = false)
    (h : s.inputs = .access a :: rest) : step s = .next (heldAccess a { s with inputs := rest }) := by
  rw [step_of_inputs h, serve, hr, if_neg Bool.false_ne_true]

/-- Settles O19: the falling edge is RESET with RST_N low, so it leaves what O20 says, and the other inputs change only what
they name. -/
theorem resetInputHoldsTheCore : Obligations.ResetInputHoldsTheCore := by
  unfold Obligations.ResetInputHoldsTheCore
  intro s rest
  refine ⟨fun h => ?_, fun hr w addr v => ⟨step_heldAccess hr, step_heldAccess hr⟩, step_rstHigh⟩
  obtain ⟨t, ht, hregs, hint, ⟨hp, hin, hrd, hlow, hn⟩, hirq, -⟩ :=
    resetCommand { s with inputs := rest, rstN := false }
  exact ⟨t, (step_rstLow h).trans ht, hlow, hin, hrd, hp, hn, hregs, hint, hirq⟩

/-! ### The reset state (R140, R1000) -/

theorem paramsOk_nominalParams : paramsOk nominalParams = true := by decide

theorem resetCore_ofParams (p : Params) (n : Nat) : resetCore (State.ofParams p n) = State.ofParams p n := by
  have hn : (State.ofParams p n).nch = n := List.length_replicate
  rw [resetCore, hn]
  rfl

theorem readReg_ofParams (p : Params) (n : Nat) (r : Reg) : readReg (State.ofParams p n) r = resetReading p r :=
  resetCore_ofParams p n ▸ readReg_resetCore (State.ofParams p n) r

/-- Settles O60: State.reset is the reset state of the nominal parameters, which are admissible, and its registers read what
R1000 prints. -/
theorem resetMeetsTheInvariant : Obligations.ResetMeetsTheInvariant := by
  unfold Obligations.ResetMeetsTheInvariant
  have hread : ∀ r, readReg State.reset r = resetReading nominalParams r := readReg_ofParams nominalParams 2
  refine ⟨(live_ofParams paramsOk_nominalParams (by decide) (by decide)).inv, ?_,
    fun p n hp h1 h16 => (live_ofParams hp h1 h16).inv⟩
  simp only [hread]
  exact ⟨rfl, rfl, rfl, fun b => by cases b <;> exact ⟨rfl, rfl, rfl, rfl⟩⟩

end Sys2Proof.Machine
end
